-- ==== Sys2Proof/Word.lean ====
section
/-! DEFINITION. The word types of the ViruaPPU core: the widths in which spec/ states stored
values (20_memory.md R204: the core reads 1, 2 and 4 bytes; 00_scope.md R17: a pixel is a u32). -/

namespace Sys2Proof

/-- One byte of a region. -/
abbrev Byte := BitVec 8

/-- A 16-bit little-endian register, palette entry or OAM half-word. -/
abbrev Half := BitVec 16

/-- A 32-bit register word, superset map entry or RGBA pixel. -/
abbrev Word := BitVec 32

end Sys2Proof
end

