-- ==== Sys2Proof/Syntax.lean ====
section
/-! DEFINITION. The operations of the core as syntax: one constructor of `Instr` per row of
spec/opcode_table.json. A row that is a selector value (its `match` and `mask` are given) carries
the selector word the table's `format` column names, where that word has other fields; a row that is a
function of the block carries the operands of its rule. -/

namespace Sys2Proof

/-- The views of 40_memory_views.md R400, and `TILES` of 10_state.md R130 (the view 49_mode0.md
R908 hands to the decoders). -/
inductive View where
  | vramGba | vramDmg | vramM0 | m0Tiles | io | bgPltt | objPltt | oam
deriving DecidableEq, Repr

/-- The storage regions of 20_memory.md R208. -/
inductive Region where
  | vram | io | bgPltt | objPltt | oam | fb
deriving DecidableEq, Repr

/-- The access widths of 00_scope.md R15: 1, 2 or 4 bytes. -/
inductive Width where
  | w1 | w2 | w4
deriving DecidableEq, Repr, Inhabited

/-- The forms of a host write: `W8`/`W16`/`W32`, `FILL`, `MODE` and `WIDTH` of 30_encoding.md R321
(40_memory_views.md R405 writes `Registers` by plain assignment). -/
inductive HostOp where
  | store (r : Region) (off : Word) (n : Width) (v : Word)
  | fill (r : Region) (off len : Word) (b : Byte)
  | mode (v : Word)
  | frameWidth (v : Word)
deriving DecidableEq, Repr

/-- The layers of 46_compositor.md R720. -/
inductive Layer where
  | bg0 | bg1 | bg2 | bg3 | obj | bd
deriving DecidableEq, Repr

/-- One contributor of a column (46_compositor.md R725): its layer, its RGBA word, and whether it is a
semi-transparent sprite. -/
structure Contributor where
  layer : Layer
  colour : Word
  semi : Bool
deriving DecidableEq, Repr

/-- The operations of the block, one constructor per row of the opcode table, in the table's order.
The widths of the operands are the model's where the spec gives mathematical integers without a width (00_scope.md R11): offsets
and tile addresses are 32-bit two's-complement numbers; the coordinates and extents of the FLIP rows and of WINDOW_IN are 16-bit
unsigned numbers, so an extent over 65535 cannot be given there; the other coordinates hold 8 bits, or 16 for a line of mode 0.
DESIGN CHOICE (assumption 17). -/
inductive Instr where
  -- 40_memory_views.md
  | readU8 (v : View) (off : Word)
  | readU16Le (v : View) (off : Word)
  | readU32Le (v : View) (off : Word)
  | hostWrite (op : HostOp)
  | hostRead (r : Region) (off : Word) (n : Width)
  | getFramebuffer
  -- 41_pixel_decoders.md
  | dec4 (v : View) (ta : Word) (px py : Byte)
  | dec8 (v : View) (ta : Word) (px py : Byte)
  | decDmg (ta : Word) (px py : Byte)
  | decode (v : View) (ta : Word) (px py : Byte) (bpp8 : Bool)
  | fetch (v : View) (ta : Word) (px py : Byte) (hf vf bpp8 : Bool)
  | flipNone (px py wpx hpx : Half)
  | flipH (px py wpx hpx : Half)
  | flipV (px py wpx hpx : Half)
  | flipHV (px py wpx hpx : Half)
  -- 42_palette.md
  | rgb555ToRgba (c : Half)
  | dmgShade (p idx : Byte)
  | rgb888ToRgba (r g b : Byte)
  -- 43_text_bg.md, 44_affine_bg.md
  | textBgLine (b y : Byte)
  | affineBgLineWrap (cnt : Half) (n y : Byte)
  | affineBgLineClip (cnt : Half) (n y : Byte)
  -- 45_sprites.md
  | spriteLine (y : Byte)
  | spriteNormal (a0 a1 a2 : Half) (y : Byte)
  | spriteAffine (a0 a1 a2 : Half) (y : Byte)
  | spriteAffineDbl (a0 a1 a2 : Half) (y : Byte)
  | spriteHidden (a0 a1 a2 : Half) (y : Byte)
  | omodeNormal (sx prio : Byte) (c : Half)
  | omodeSemi (sx prio : Byte) (c : Half)
  | omodeObjwin (sx : Byte)
  | omodeHidden (sx : Byte)
  | objSizeSquare8x8 (affine dbl : Bool) (yRaw : Byte) (xRaw : Half)
  | objSizeSquare16x16 (affine dbl : Bool) (yRaw : Byte) (xRaw : Half)
  | objSizeSquare32x32 (affine dbl : Bool) (yRaw : Byte) (xRaw : Half)
  | objSizeSquare64x64 (affine dbl : Bool) (yRaw : Byte) (xRaw : Half)
  | objSizeWide16x8 (affine dbl : Bool) (yRaw : Byte) (xRaw : Half)
  | objSizeWide32x8 (affine dbl : Bool) (yRaw : Byte) (xRaw : Half)
  | objSizeWide32x16 (affine dbl : Bool) (yRaw : Byte) (xRaw : Half)
  | objSizeWide64x32 (affine dbl : Bool) (yRaw : Byte) (xRaw : Half)
  | objSizeTall8x16 (affine dbl : Bool) (yRaw : Byte) (xRaw : Half)
  | objSizeTall8x32 (affine dbl : Bool) (yRaw : Byte) (xRaw : Half)
  | objSizeTall16x32 (affine dbl : Bool) (yRaw : Byte) (xRaw : Half)
  | objSizeTall32x64 (affine dbl : Bool) (yRaw : Byte) (xRaw : Half)
  | objSizeReserved (size : Byte)
  -- 46_compositor.md
  | windowIn (h v x y w hs : Half)
  | windowEnables (x y : Byte)
  | effectNone (bldcnt : Half) (top : Contributor) (bot : Option Contributor)
  | effectAlpha (bldcnt : Half) (top : Contributor) (bot : Option Contributor)
  | effectBrighten (bldcnt : Half) (top : Contributor) (bot : Option Contributor)
  | effectDarken (bldcnt : Half) (top : Contributor) (bot : Option Contributor)
  | semiForcedAlpha (t : Word) (bot : Contributor)
  | composeLine (y : Byte)
  -- 47_dispatch.md
  | renderFrame
  | renderFrameMode0
  | renderFrameGbaText
  | renderFrameGbaMixed
  | renderFrameDmg
  | renderFrameNop (mode : Word)
  | forcedBlankGba (dispcnt : Half)
  | forcedBlankFill
  | forcedBlankDmg (lcdc : Byte)
  | forcedBlankMode0
  -- 48_dmg.md
  | dmgTileUnsigned (lcdc t : Byte)
  | dmgTileSigned (lcdc t : Byte)
  | dmgObj8 (lcdc i : Byte)
  | dmgObj16 (lcdc i : Byte)
  | dmgSpriteEntry (b0 b1 b2 b3 : Byte) (x y : Byte)
  | dmgPixel (x y : Byte) (sel : List Byte)
  -- 49_mode0.md
  | m0BgText (b : Byte) (y : Half)
  | m0BgAffine (b : Byte) (y : Half)
  | m0SpriteLine (y : Half)
  | m0ComposeLine (y : Half)
deriving DecidableEq, Repr

/-- Why a sequence of command bytes is no instruction. -/
inductive DecodeError where
  /-- the bytes end inside the instruction -/
  | truncated
  /-- the first byte names no command format -/
  | unknownFormat
  /-- the selector word matches no row of the opcode table -/
  | unknownSelector
  /-- an operand byte holds a code that names nothing (a view, a region, a layer, a Boolean …) -/
  | badOperand
  /-- every field reads, but the instruction is not well formed -/
  | illFormed
deriving DecidableEq, Repr

end Sys2Proof
end

