-- ==== Sys2Proof/Config.lean ====
section
/-! DEFINITION. The parameters of 00_scope.md R10: the constants to which spec/ gives a value, and the
two it leaves OPEN (`DMG_SHADE[0..2]`, `Mode0Layout` with `TILEMAP_ENTRIES`), which have no body here, so that
nothing proved can depend on what they are. -/

namespace Sys2Proof.Config

open Sys2Proof

/-- `VRAM_SIZE` (10_state.md R101). -/
def vramSize : Nat := 0x400000
/-- `GBA_VRAM_LIMIT` (10_state.md R102). -/
def gbaVramLimit : Nat := 0x18000
/-- First VRAM offset past the DMG record (10_state.md R103). -/
def dmgVramLimit : Nat := 0x20A8
/-- `OBJ_TILE_BASE`. -/
def objTileBase : Nat := 0x10000
/-- `IO_SIZE` (10_state.md R104). -/
def ioSize : Nat := 0x400
/-- Bytes of `BGPLTT` and of `OBJPLTT`: `PLTT_ENTRIES` entries of two bytes (10_state.md R105). -/
def plttSize : Nat := 0x200
/-- Bytes of `OAM`: `OAM_HALFWORDS` half-words (10_state.md R106). -/
def oamSize : Nat := 0x400
/-- Words of `FB`: `FB_W_MAX * FB_H_MAX` (10_state.md R107). -/
def fbWords : Nat := 460800
/-- `FB_W_MAX`, the widest line any mode renders. -/
def fbWidthMax : Nat := 1280
/-- `GBA_W`, `GBA_H`. -/
def gbaW : Nat := 240
def gbaH : Nat := 160
/-- `DMG_W`, `DMG_H`. -/
def dmgW : Nat := 160
def dmgH : Nat := 144
/-- `M0_H`. -/
def m0H : Nat := 360
/-- `M0_TILE_BYTES`. -/
def m0TileBytes : Nat := 0x200000
/-- `M0_PAL_BANKS`, `M0_AFFINE_MATS`, `M0_SPRITES`. -/
def m0PalBanks : Nat := 6
def m0AffineMats : Nat := 64
def m0Sprites : Nat := 512
/-- GBA OAM entries and DMG sprite-table entries. -/
def gbaSprites : Nat := 128
def dmgSprites : Nat := 40
/-- `DMG_SPRITES_PER_LINE`. -/
def dmgSpritesPerLine : Nat := 10

/-- `WHITE`, the forced-blank fill (42_palette.md R506). -/
def white : Word := 0xFFFFFFFF

/-- The red, green and blue bytes of `DMG_SHADE[0..2]`: OPEN (42_palette.md R504, 92_eei_decisions.md D31).
A free value: it has no body (assumption 6). -/
opaque dmgShadeRgb : Fin 3 → BitVec 24

/-- Every typed field of the mode-0 record, with its indices (10_state.md R130). -/
inductive M0Field where
  -- global PPU registers `G`
  | forcedBlank | objOn | win0On | win1On | objwinOn
  | win0X1 | win0X2 | win0Y1 | win0Y2 | win1X1 | win1X2 | win1Y1 | win1Y2
  | winin0 | winin1 | winout | winobj | effect | firstTarget | secondTarget | eva | evb | evy
  -- background control records `BG[b]`
  | bgEnabled (b : Nat) | bgWidthTiles (b : Nat) | bgHeightTiles (b : Nat) | bgBpp8 (b : Nat)
  | bgWrapX (b : Nat) | bgWrapY (b : Nat) | bgAffine (b : Nat) | bgMosaic (b : Nat)
  | bgPa (b : Nat) | bgPb (b : Nat) | bgPc (b : Nat) | bgPd (b : Nat) | bgOx (b : Nat) | bgOy (b : Nat)
  | bgScrollX (b : Nat) | bgScrollY (b : Nat) | bgLayerPriority (b : Nat)
  -- `MAP[b][k]`, `TILES`, `PAL[k][i]`, `SAFF[m]`
  | map (b k : Nat) | tile (o : Nat) | palR (k i : Nat) | palG (k i : Nat) | palB (k i : Nat)
  | saffPa (m : Nat) | saffPb (m : Nat) | saffPc (m : Nat) | saffPd (m : Nat)
  -- sprite records `SPR[s]`
  | sprX (s : Nat) | sprY (s : Nat) | sprW8 (s : Nat) | sprH8 (s : Nat) | sprTile (s : Nat)
  | sprPalette (s : Nat) | sprPriority (s : Nat) | sprAffineIndex (s : Nat) | sprEnabled (s : Nat)
  | sprBpp8 (s : Nat) | sprHflip (s : Nat) | sprVflip (s : Nat) | sprMosaic (s : Nat)
  | sprAffine (s : Nat) | sprDoubleSize (s : Nat) | sprSemi (s : Nat) | sprObjwin (s : Nat)
  -- line tables `LINE_SCROLL[b][l]`, `LINE_AFFINE[b][l]`
  | lineScrollX (b l : Nat) | lineScrollY (b l : Nat)
  | lineValid (b l : Nat) | lineTx (b l : Nat) | lineTy (b l : Nat)
deriving DecidableEq, Repr

/-- Where one field of the mode-0 record stands: bits `lo .. lo+len-1` of the `n`-byte little-endian value at
VRAM offset `off`. -/
structure Placement where
  off : Nat
  n : Width
  lo : Nat
  len : Nat
deriving DecidableEq, Repr, Inhabited

/-- `Mode0Layout`: the placement of every field, and the number of map entries of a BG. -/
structure Mode0Layout where
  place : M0Field → Placement
  tilemapEntries : Nat
deriving Inhabited

/-- The layout "fixed at build time" that no source gives: OPEN (10_state.md R108, 92_eei_decisions.md D34).
A free value: it has no body (assumption 7). -/
opaque mode0Layout : Mode0Layout

end Sys2Proof.Config
end

