-- ==== Sys2Proof/WellFormed.lean ====
section
/-! DEFINITION. When a term of `Instr` is an operation the spec describes: every selector word has
the bits of its row of spec/opcode_table.json, and every operand lies in the range its rule states. -/

namespace Sys2Proof

/-- Bits `lo` upward, `len` of them, as a number (00_scope.md R12). -/
def selBits {n : Nat} (v : BitVec n) (lo len : Nat) : Nat := (v.extractLsb' lo len).toNat

/-- A local tile coordinate is in 0..7 (41_pixel_decoders.md R451). -/
def tileCoordOk (px py : Byte) : Bool := decide (px.toNat < 8) && decide (py.toNat < 8)

/-- A coordinate to flip lies inside its extent (41_pixel_decoders.md R452). -/
def flipOk (px py wpx hpx : Half) : Bool :=
  decide (px.toNat < wpx.toNat) && decide (py.toNat < hpx.toNat)

/-- A scanline of modes 1 and 2 (43_text_bg.md R553). -/
def gbaLineOk (y : Byte) : Bool := decide (y.toNat < 160)

/-- A column of modes 1 and 2. -/
def gbaColOk (x : Byte) : Bool := decide (x.toNat < 240)

/-- A scanline of mode 0 (49_mode0.md R901). -/
def m0LineOk (y : Half) : Bool := decide (y.toNat < 360)

/-- A raw 9-bit X (30_encoding.md R304). -/
def rawXOk (x : Half) : Bool := decide (x.toNat < 512)

/-- Only a sprite is semi-transparent (46_compositor.md R725). -/
def Contributor.wellFormed (c : Contributor) : Bool := !c.semi || decide (c.layer = .obj)

/-- The operands of a colour-math row: `EFFECT` of the word is the row's, the contributors are legal. -/
def effectOk (effect : Nat) (bldcnt : Half) (top : Contributor) (bot : Option Contributor) : Bool :=
  decide (selBits bldcnt 6 2 = effect) && top.wellFormed && bot.all Contributor.wellFormed

/-- `DBL`, `AFFINE` of attr0 are the row's (30_encoding.md R323). -/
def spriteOk (sel : Nat) (a0 : Half) (y : Byte) : Bool :=
  decide (selBits a0 8 2 = sel) && gbaLineOk y

/-- A candidate's column and priority (45_sprites.md R659). -/
def candidateOk (sx prio : Byte) : Bool := gbaColOk sx && decide (prio.toNat < 4)

/-- `WRAP` of BGnCNT is the row's, and `n` is an affine BG (44_affine_bg.md R600, R601). -/
def affineOk (wrap : Nat) (cnt : Half) (n y : Byte) : Bool :=
  decide (selBits cnt 13 1 = wrap) && (decide (n.toNat = 2) || decide (n.toNat = 3)) && gbaLineOk y

/-- Every operand in the range its rule gives, every selector word that of its row. -/
def Instr.wellFormed : Instr → Bool
  | .readU8 _ _ | .readU16Le _ _ | .readU32Le _ _ => true
  | .hostWrite _ => true
  | .hostRead _ _ _ | .getFramebuffer => true
  | .dec4 _ _ px py | .dec8 _ _ px py | .decDmg _ px py => tileCoordOk px py
  | .decode _ _ px py _ | .fetch _ _ px py _ _ _ => tileCoordOk px py
  | .flipNone px py wpx hpx | .flipH px py wpx hpx => flipOk px py wpx hpx
  | .flipV px py wpx hpx | .flipHV px py wpx hpx => flipOk px py wpx hpx
  | .rgb555ToRgba _ => true
  | .dmgShade _ idx => decide (idx.toNat < 4)
  | .rgb888ToRgba _ _ _ => true
  | .textBgLine b y => decide (b.toNat < 4) && gbaLineOk y
  | .affineBgLineWrap cnt n y => affineOk 1 cnt n y
  | .affineBgLineClip cnt n y => affineOk 0 cnt n y
  | .spriteLine y => gbaLineOk y
  | .spriteNormal a0 _ _ y => spriteOk 0 a0 y
  | .spriteAffine a0 _ _ y => spriteOk 1 a0 y
  | .spriteAffineDbl a0 _ _ y => spriteOk 3 a0 y
  | .spriteHidden a0 _ _ y => spriteOk 2 a0 y
  | .omodeNormal sx prio _ | .omodeSemi sx prio _ => candidateOk sx prio
  | .omodeObjwin sx | .omodeHidden sx => gbaColOk sx
  | .objSizeSquare8x8 _ _ _ x | .objSizeSquare16x16 _ _ _ x => rawXOk x
  | .objSizeSquare32x32 _ _ _ x | .objSizeSquare64x64 _ _ _ x => rawXOk x
  | .objSizeWide16x8 _ _ _ x | .objSizeWide32x8 _ _ _ x => rawXOk x
  | .objSizeWide32x16 _ _ _ x | .objSizeWide64x32 _ _ _ x => rawXOk x
  | .objSizeTall8x16 _ _ _ x | .objSizeTall8x32 _ _ _ x => rawXOk x
  | .objSizeTall16x32 _ _ _ x | .objSizeTall32x64 _ _ _ x => rawXOk x
  | .objSizeReserved size => decide (size.toNat < 4)
  | .windowIn _ _ _ _ _ _ => true
  | .windowEnables x y => gbaColOk x && gbaLineOk y
  | .effectNone w top bot => effectOk 0 w top bot
  | .effectAlpha w top bot => effectOk 1 w top bot
  | .effectBrighten w top bot => effectOk 2 w top bot
  | .effectDarken w top bot => effectOk 3 w top bot
  | .semiForcedAlpha _ bot => bot.wellFormed
  | .composeLine y => gbaLineOk y
  | .renderFrame | .renderFrameMode0 | .renderFrameGbaText => true
  | .renderFrameGbaMixed | .renderFrameDmg => true
  | .renderFrameNop m =>
      decide (m.toNat ≠ 0) && decide (m.toNat ≠ 1) && decide (m.toNat ≠ 2) && decide (m.toNat ≠ 7)
  | .forcedBlankGba w => decide (selBits w 7 1 = 1)
  | .forcedBlankFill => true
  | .forcedBlankDmg w => decide (selBits w 7 1 = 0)
  | .forcedBlankMode0 => true
  | .dmgTileUnsigned w _ => decide (selBits w 4 1 = 1)
  | .dmgTileSigned w _ => decide (selBits w 4 1 = 0)
  | .dmgObj8 w i => decide (selBits w 2 1 = 0) && decide (i.toNat < 40)
  | .dmgObj16 w i => decide (selBits w 2 1 = 1) && decide (i.toNat < 40)
  | .dmgSpriteEntry _ _ _ _ x y => decide (x.toNat < 160) && decide (y.toNat < 144)
  | .dmgPixel x y sel =>
      decide (x.toNat < 160) && decide (y.toNat < 144) && decide (sel.length ≤ 10) &&
        sel.all (fun i => decide (i.toNat < 40))
  | .m0BgText b y | .m0BgAffine b y => decide (b.toNat < 4) && m0LineOk y
  | .m0SpriteLine y | .m0ComposeLine y => m0LineOk y

end Sys2Proof
end

