-- ==== Sys2Proof/Decode.lean ====
section
/-! DEFINITION. The decoder: from the bytes of a command to an instruction, total, rejecting by name; and
after it the encoder. The spec gives the selector words (spec/opcode_table.json `match`, `mask`, `format`) and no
encoding of a command (30_encoding.md R300, R321): a command here is a format byte, which says which
selector field or which operation follows, then the selector word as the table has it, then
the operands, every number little-endian (20_memory.md R200). The format bytes and the operands' layout are
the model's own (assumption 2). -/

namespace Sys2Proof

/-! ### Reading operands -/

/-- Reading one thing from the front of the bytes: it gives the thing and the bytes after it, or says
why there is none. -/
abbrev Parser := StateT (List Byte) (Except DecodeError)

def takeByte : Parser Byte := fun bs => match bs with
  | b :: r => .ok (b, r)
  | [] => .error .truncated

/-- A 16-bit little-endian number. -/
def takeHalf : Parser Half := fun bs => match bs with
  | a :: b :: r => .ok (b ++ a, r)
  | _ => .error .truncated

/-- A 32-bit little-endian number. -/
def takeWord : Parser Word := fun bs => match bs with
  | a :: b :: c :: d :: r => .ok (d ++ c ++ b ++ a, r)
  | _ => .error .truncated

/-- One byte that codes a value of a finite set. -/
def takeCode {α : Type} (f : Nat → Option α) : Parser α := fun bs => match bs with
  | b :: r =>
    match f b.toNat with
    | some v => .ok (v, r)
    | none => .error .badOperand
  | [] => .error .truncated

def boolOfCode : Nat → Option Bool
  | 0 => some false
  | 1 => some true
  | _ => none

def viewOfCode : Nat → Option View
  | 0 => some .vramGba
  | 1 => some .vramDmg
  | 2 => some .vramM0
  | 3 => some .m0Tiles
  | 4 => some .io
  | 5 => some .bgPltt
  | 6 => some .objPltt
  | 7 => some .oam
  | _ => none

def regionOfCode : Nat → Option Region
  | 0 => some .vram
  | 1 => some .io
  | 2 => some .bgPltt
  | 3 => some .objPltt
  | 4 => some .oam
  | 5 => some .fb
  | _ => none

/-- A width is coded by its number of bytes. -/
def widthOfCode : Nat → Option Width
  | 1 => some .w1
  | 2 => some .w2
  | 4 => some .w4
  | _ => none

/-- A layer is coded by its number (46_compositor.md R720). -/
def layerOfCode : Nat → Option Layer
  | 0 => some .bg0
  | 1 => some .bg1
  | 2 => some .bg2
  | 3 => some .bg3
  | 4 => some .obj
  | 5 => some .bd
  | _ => none

def takeBool : Parser Bool := takeCode boolOfCode
def takeView : Parser View := takeCode viewOfCode
def takeRegion : Parser Region := takeCode regionOfCode
def takeWidth : Parser Width := takeCode widthOfCode
def takeLayer : Parser Layer := takeCode layerOfCode

def takeContributor : Parser Contributor := do
  let layer ← takeLayer
  let semi ← takeBool
  let colour ← takeWord
  pure ⟨layer, colour, semi⟩

/-- The lower contributor: absent (0), or present (1) and then itself. -/
def takeOptContributor : Parser (Option Contributor) := do
  let present ← takeBool
  if present then
    let c ← takeContributor
    pure (some c)
  else pure none

/-- `k` bytes. -/
def takeBytes : Nat → Parser (List Byte)
  | 0 => pure []
  | k + 1 => do
    let b ← takeByte
    let rest ← takeBytes k
    pure (b :: rest)

/-- A host write: its form (0 store, 1 fill, 2 MODE, 3 WIDTH), then the form's operands. -/
def takeHostOp : Parser HostOp := do
  let form ← takeByte
  match form.toNat with
  | 0 => do
    let r ← takeRegion
    let off ← takeWord
    let n ← takeWidth
    let v ← takeWord
    pure (.store r off n v)
  | 1 => do
    let r ← takeRegion
    let off ← takeWord
    let len ← takeWord
    let b ← takeByte
    pure (.fill r off len b)
  | 2 => do
    let v ← takeWord
    pure (.mode v)
  | 3 => do
    let v ← takeWord
    pure (.frameWidth v)
  | _ => throw .badOperand

/-! ### Operand lists shared by the rows of one selector -/

def parseReadOp (mk : View → Word → Instr) : Parser Instr := do
  let v ← takeView
  let off ← takeWord
  pure (mk v off)

def parseDecOp (mk : View → Word → Byte → Byte → Instr) : Parser Instr := do
  let v ← takeView
  let ta ← takeWord
  let px ← takeByte
  let py ← takeByte
  pure (mk v ta px py)

/-- The extents are coded as their largest coordinate, so that a field of zeros is one pixel. -/
def parseFlipOp (mk : Half → Half → Half → Half → Instr) : Parser Instr := do
  let px ← takeHalf
  let py ← takeHalf
  let wl ← takeHalf
  let hl ← takeHalf
  pure (mk px py (wl + 1) (hl + 1))

/-- The affine BG's number is coded as `n - 2`. -/
def parseAffineOp (mk : Byte → Byte → Instr) : Parser Instr := do
  let k ← takeByte
  let y ← takeByte
  pure (mk (k + 2) y)

def parseSpriteOp (mk : Half → Half → Byte → Instr) : Parser Instr := do
  let a1 ← takeHalf
  let a2 ← takeHalf
  let y ← takeByte
  pure (mk a1 a2 y)

def parseCandidateOp (mk : Byte → Byte → Half → Instr) : Parser Instr := do
  let sx ← takeByte
  let prio ← takeByte
  let c ← takeHalf
  pure (mk sx prio c)

def parseByteOp (mk : Byte → Instr) : Parser Instr := do
  let a ← takeByte
  pure (mk a)

def parseTwoBytesOp (mk : Byte → Byte → Instr) : Parser Instr := do
  let a ← takeByte
  let b ← takeByte
  pure (mk a b)

def parseThreeBytesOp (mk : Byte → Byte → Byte → Instr) : Parser Instr := do
  let a ← takeByte
  let b ← takeByte
  let c ← takeByte
  pure (mk a b c)

def parseObjSizeOp (mk : Bool → Bool → Byte → Half → Instr) : Parser Instr := do
  let affine ← takeBool
  let dbl ← takeBool
  let y ← takeByte
  let x ← takeHalf
  pure (mk affine dbl y x)

def parseEffectOp (mk : Contributor → Option Contributor → Instr) : Parser Instr := do
  let top ← takeContributor
  let bot ← takeOptContributor
  pure (mk top bot)

def parseM0BgOp (mk : Byte → Half → Instr) : Parser Instr := do
  let b ← takeByte
  let y ← takeHalf
  pure (mk b y)

def parseHalfOp (mk : Half → Instr) : Parser Instr := do
  let y ← takeHalf
  pure (mk y)

/-! ### The selectors of spec/opcode_table.json -/

/-- `BPP8`: the row of a decoder (rows DEC4, DEC8). -/
def bppRow (bpp8 : Bool) : View → Word → Byte → Byte → Instr :=
  if bpp8 then .dec8 else .dec4

/-- The flip selector, `vf` in the higher bit (rows FLIP_NONE, FLIP_H, FLIP_V, FLIP_HV). -/
def flipRow (hf vf : Bool) : Half → Half → Half → Half → Instr :=
  match vf, hf with
  | false, false => .flipNone
  | false, true => .flipH
  | true, false => .flipV
  | true, true => .flipHV

/-- `AFFINE` bit 8, `DBL` bit 9 of attr0 (rows SPRITE_NORMAL, _AFFINE, _AFFINE_DBL, _HIDDEN). -/
def spriteRow (a0 : Half) : Half → Half → Byte → Instr :=
  match a0.getLsbD 9, a0.getLsbD 8 with
  | false, false => .spriteNormal a0
  | false, true => .spriteAffine a0
  | true, true => .spriteAffineDbl a0
  | true, false => .spriteHidden a0

/-- `OMODE` bits 11:10 of attr0 (rows OMODE_NORMAL, _SEMI, _OBJWIN, _HIDDEN). -/
def omodeRow (a0 : Half) : Parser Instr :=
  match a0.getLsbD 11, a0.getLsbD 10 with
  | false, false => parseCandidateOp .omodeNormal
  | false, true => parseCandidateOp .omodeSemi
  | true, false => parseByteOp .omodeObjwin
  | true, true => parseByteOp .omodeHidden

/-- `SHAPE` in the high two bits, `SIZE` in the low two (rows OBJ_SIZE_*; 30_encoding.md R314). -/
def objSizeRow (sel : Nat) : Parser Instr :=
  match sel with
  | 0 => parseObjSizeOp .objSizeSquare8x8
  | 1 => parseObjSizeOp .objSizeSquare16x16
  | 2 => parseObjSizeOp .objSizeSquare32x32
  | 3 => parseObjSizeOp .objSizeSquare64x64
  | 4 => parseObjSizeOp .objSizeWide16x8
  | 5 => parseObjSizeOp .objSizeWide32x8
  | 6 => parseObjSizeOp .objSizeWide32x16
  | 7 => parseObjSizeOp .objSizeWide64x32
  | 8 => parseObjSizeOp .objSizeTall8x16
  | 9 => parseObjSizeOp .objSizeTall8x32
  | 10 => parseObjSizeOp .objSizeTall16x32
  | 11 => parseObjSizeOp .objSizeTall32x64
  | 12 => pure (.objSizeReserved 0)
  | 13 => pure (.objSizeReserved 1)
  | 14 => pure (.objSizeReserved 2)
  | 15 => pure (.objSizeReserved 3)
  | _ => throw .unknownSelector

/-- `EFFECT` bits 7:6 of BLDCNT (rows EFFECT_NONE, _ALPHA, _BRIGHTEN, _DARKEN). -/
def effectRow (w : Half) : Contributor → Option Contributor → Instr :=
  match w.getLsbD 7, w.getLsbD 6 with
  | false, false => .effectNone w
  | false, true => .effectAlpha w
  | true, false => .effectBrighten w
  | true, true => .effectDarken w

/-- `Registers.mode` (rows RENDER_FRAME.MODE0, .GBA_TEXT, .GBA_MIXED, .DMG, .NOP; 30_encoding.md R317). -/
def modeRow (m : Word) : Instr :=
  match m.toNat with
  | 0 => .renderFrameMode0
  | 1 => .renderFrameGbaText
  | 2 => .renderFrameGbaMixed
  | 7 => .renderFrameDmg
  | _ => .renderFrameNop m

/-! ### The format bytes -/

/-- The command whose format byte is `tag`, from the bytes after it. Below 0x80 the tag is the place of an
operation's row in spec/opcode_table.json; from 0x80 on it names the register or entry whose selector
field follows. -/
def parseFormat (tag : Nat) : Parser Instr :=
  match tag with
  | 0x00 => parseReadOp .readU8
  | 0x01 => parseReadOp .readU16Le
  | 0x02 => parseReadOp .readU32Le
  | 0x03 => do
    let op ← takeHostOp
    pure (.hostWrite op)
  | 0x04 => do
    let r ← takeRegion
    let off ← takeWord
    let n ← takeWidth
    pure (.hostRead r off n)
  | 0x05 => pure .getFramebuffer
  | 0x08 => do
    let ta ← takeWord
    let px ← takeByte
    let py ← takeByte
    pure (.decDmg ta px py)
  | 0x09 => do
    let v ← takeView
    let ta ← takeWord
    let px ← takeByte
    let py ← takeByte
    let bpp8 ← takeBool
    pure (.decode v ta px py bpp8)
  | 0x0A => do
    let v ← takeView
    let ta ← takeWord
    let px ← takeByte
    let py ← takeByte
    let hf ← takeBool
    let vf ← takeBool
    let bpp8 ← takeBool
    pure (.fetch v ta px py hf vf bpp8)
  | 0x0F => parseHalfOp .rgb555ToRgba
  | 0x10 => parseTwoBytesOp .dmgShade
  | 0x11 => parseThreeBytesOp .rgb888ToRgba
  | 0x12 => parseTwoBytesOp .textBgLine
  | 0x15 => parseByteOp .spriteLine
  | 0x2B => do
    let h ← takeHalf
    let v ← takeHalf
    let x ← takeHalf
    let y ← takeHalf
    let w ← takeHalf
    let hs ← takeHalf
    pure (.windowIn h v x y w hs)
  | 0x2C => parseTwoBytesOp .windowEnables
  | 0x31 => do
    let t ← takeWord
    let bot ← takeContributor
    pure (.semiForcedAlpha t bot)
  | 0x32 => parseByteOp .composeLine
  | 0x33 => pure .renderFrame
  | 0x3A => pure .forcedBlankFill
  | 0x3C => pure .forcedBlankMode0
  | 0x41 => do
    let b0 ← takeByte
    let b1 ← takeByte
    let b2 ← takeByte
    let b3 ← takeByte
    let x ← takeByte
    let y ← takeByte
    pure (.dmgSpriteEntry b0 b1 b2 b3 x y)
  | 0x42 => do
    let x ← takeByte
    let y ← takeByte
    let k ← takeByte
    let sel ← takeBytes k.toNat
    pure (.dmgPixel x y sel)
  | 0x43 => parseM0BgOp .m0BgText
  | 0x44 => parseM0BgOp .m0BgAffine
  | 0x45 => parseHalfOp .m0SpriteLine
  | 0x46 => parseHalfOp .m0ComposeLine
  | 0x80 => do  -- BGxCNT: BPP8 is bit 7
    let w ← takeHalf
    parseDecOp (bppRow (w.getLsbD 7))
  | 0x81 => do  -- OAM attr0: BPP8 is bit 13
    let w ← takeHalf
    parseDecOp (bppRow (w.getLsbD 13))
  | 0x82 => do  -- the flip selector itself
    let w ← takeByte
    parseFlipOp (flipRow (w.getLsbD 0) (w.getLsbD 1))
  | 0x83 => do  -- text map entry: bits 11:10
    let w ← takeHalf
    parseFlipOp (flipRow (w.getLsbD 10) (w.getLsbD 11))
  | 0x84 => do  -- OAM attr1 of a non-affine sprite: bits 13:12
    let w ← takeHalf
    parseFlipOp (flipRow (w.getLsbD 12) (w.getLsbD 13))
  | 0x85 => do  -- superset map entry: bits 28:27
    let w ← takeWord
    parseFlipOp (flipRow (w.getLsbD 27) (w.getLsbD 28))
  | 0x86 => do  -- DMG sprite flags: bits 6:5
    let w ← takeByte
    parseFlipOp (flipRow (w.getLsbD 5) (w.getLsbD 6))
  | 0x88 => do  -- BGnCNT: WRAP is bit 13
    let w ← takeHalf
    parseAffineOp (if w.getLsbD 13 then .affineBgLineWrap w else .affineBgLineClip w)
  | 0x89 => do
    let a0 ← takeHalf
    parseSpriteOp (spriteRow a0)
  | 0x8A => do
    let a0 ← takeHalf
    omodeRow a0
  | 0x8B => do
    let w ← takeByte
    objSizeRow w.toNat
  | 0x8C => do
    let w ← takeHalf
    parseEffectOp (effectRow w)
  | 0x8D => do
    let m ← takeWord
    pure (modeRow m)
  | 0x8E => do  -- DISPCNT: only FORCED_BLANK = 1 is a row
    let w ← takeHalf
    if w.getLsbD 7 then pure (.forcedBlankGba w) else throw .unknownSelector
  | 0x8F => do  -- LCDC: only LCD_ON = 0 is a row
    let w ← takeByte
    if w.getLsbD 7 then throw .unknownSelector else pure (.forcedBlankDmg w)
  | 0x90 => do  -- LCDC: TILE_DATA is bit 4
    let w ← takeByte
    parseByteOp (if w.getLsbD 4 then .dmgTileUnsigned w else .dmgTileSigned w)
  | 0x91 => do  -- LCDC: OBJ_SIZE is bit 2
    let w ← takeByte
    parseByteOp (if w.getLsbD 2 then .dmgObj16 w else .dmgObj8 w)
  | _ => throw .unknownFormat

/-- One command at the front of the bytes, its fields only. -/
def parse : Parser Instr := do
  let tag ← takeByte
  parseFormat tag.toNat

/-- THE DECODER: the well-formed instruction at the front of the bytes, with the bytes after it. -/
def decode (bs : List Byte) : Except DecodeError (Instr × List Byte) :=
  match parse bs with
  | .ok (i, rest) => if i.wellFormed then .ok (i, rest) else .error .illFormed
  | .error e => .error e

/-! ### The encoder -/

def putHalf (v : Half) : List Byte := [v.extractLsb' 0 8, v.extractLsb' 8 8]

def putWord (v : Word) : List Byte :=
  [v.extractLsb' 0 8, v.extractLsb' 8 8, v.extractLsb' 16 8, v.extractLsb' 24 8]

def boolCode (b : Bool) : Byte := if b then 1 else 0

def viewCode : View → Byte
  | .vramGba => 0 | .vramDmg => 1 | .vramM0 => 2 | .m0Tiles => 3
  | .io => 4 | .bgPltt => 5 | .objPltt => 6 | .oam => 7

def regionCode : Region → Byte
  | .vram => 0 | .io => 1 | .bgPltt => 2 | .objPltt => 3 | .oam => 4 | .fb => 5

def widthCode : Width → Byte
  | .w1 => 1 | .w2 => 2 | .w4 => 4

def layerCode : Layer → Byte
  | .bg0 => 0 | .bg1 => 1 | .bg2 => 2 | .bg3 => 3 | .obj => 4 | .bd => 5

def putContributor (c : Contributor) : List Byte :=
  [layerCode c.layer, boolCode c.semi] ++ putWord c.colour

def putOptContributor : Option Contributor → List Byte
  | none => [0]
  | some c => 1 :: putContributor c

def putHostOp : HostOp → List Byte
  | .store r off n v => [0, regionCode r] ++ putWord off ++ [widthCode n] ++ putWord v
  | .fill r off len b => [1, regionCode r] ++ putWord off ++ putWord len ++ [b]
  | .mode v => 2 :: putWord v
  | .frameWidth v => 3 :: putWord v

def putReadOp (tag : Byte) (v : View) (off : Word) : List Byte := [tag, viewCode v] ++ putWord off

def putDecOp (selector : Half) (v : View) (ta : Word) (px py : Byte) : List Byte :=
  [0x80] ++ putHalf selector ++ [viewCode v] ++ putWord ta ++ [px, py]

def putFlipOp (selector : Byte) (px py wpx hpx : Half) : List Byte :=
  [0x82, selector] ++ putHalf px ++ putHalf py ++ putHalf (wpx - 1) ++ putHalf (hpx - 1)

def putAffineOp (cnt : Half) (n y : Byte) : List Byte := [0x88] ++ putHalf cnt ++ [n - 2, y]

def putSpriteOp (a0 a1 a2 : Half) (y : Byte) : List Byte :=
  [0x89] ++ putHalf a0 ++ putHalf a1 ++ putHalf a2 ++ [y]

def putCandidateOp (a0 : Half) (sx prio : Byte) (c : Half) : List Byte :=
  [0x8A] ++ putHalf a0 ++ [sx, prio] ++ putHalf c

def putObjSizeOp (sel : Byte) (affine dbl : Bool) (y : Byte) (x : Half) : List Byte :=
  [0x8B, sel, boolCode affine, boolCode dbl, y] ++ putHalf x

def putEffectOp (w : Half) (top : Contributor) (bot : Option Contributor) : List Byte :=
  [0x8C] ++ putHalf w ++ putContributor top ++ putOptContributor bot

def putM0BgOp (tag b : Byte) (y : Half) : List Byte := [tag, b] ++ putHalf y

/-- THE ENCODER: the bytes of an instruction, each selector word with its row's `match` value. -/
def encode : Instr → List Byte
  | .readU8 v off => putReadOp 0x00 v off
  | .readU16Le v off => putReadOp 0x01 v off
  | .readU32Le v off => putReadOp 0x02 v off
  | .hostWrite op => 0x03 :: putHostOp op
  | .hostRead r off n => [0x04, regionCode r] ++ putWord off ++ [widthCode n]
  | .getFramebuffer => [0x05]
  | .dec4 v ta px py => putDecOp 0x0000 v ta px py
  | .dec8 v ta px py => putDecOp 0x0080 v ta px py
  | .decDmg ta px py => [0x08] ++ putWord ta ++ [px, py]
  | .decode v ta px py bpp8 => [0x09, viewCode v] ++ putWord ta ++ [px, py, boolCode bpp8]
  | .fetch v ta px py hf vf bpp8 =>
      [0x0A, viewCode v] ++ putWord ta ++ [px, py, boolCode hf, boolCode vf, boolCode bpp8]
  | .flipNone px py w h => putFlipOp 0b00 px py w h
  | .flipH px py w h => putFlipOp 0b01 px py w h
  | .flipV px py w h => putFlipOp 0b10 px py w h
  | .flipHV px py w h => putFlipOp 0b11 px py w h
  | .rgb555ToRgba c => [0x0F] ++ putHalf c
  | .dmgShade p idx => [0x10, p, idx]
  | .rgb888ToRgba r g b => [0x11, r, g, b]
  | .textBgLine b y => [0x12, b, y]
  | .affineBgLineWrap cnt n y => putAffineOp cnt n y
  | .affineBgLineClip cnt n y => putAffineOp cnt n y
  | .spriteLine y => [0x15, y]
  | .spriteNormal a0 a1 a2 y => putSpriteOp a0 a1 a2 y
  | .spriteAffine a0 a1 a2 y => putSpriteOp a0 a1 a2 y
  | .spriteAffineDbl a0 a1 a2 y => putSpriteOp a0 a1 a2 y
  | .spriteHidden a0 a1 a2 y => putSpriteOp a0 a1 a2 y
  | .omodeNormal sx prio c => putCandidateOp 0x0000 sx prio c
  | .omodeSemi sx prio c => putCandidateOp 0x0400 sx prio c
  | .omodeObjwin sx => [0x8A] ++ putHalf 0x0800 ++ [sx]
  | .omodeHidden sx => [0x8A] ++ putHalf 0x0C00 ++ [sx]
  | .objSizeSquare8x8 a d y x => putObjSizeOp 0b0000 a d y x
  | .objSizeSquare16x16 a d y x => putObjSizeOp 0b0001 a d y x
  | .objSizeSquare32x32 a d y x => putObjSizeOp 0b0010 a d y x
  | .objSizeSquare64x64 a d y x => putObjSizeOp 0b0011 a d y x
  | .objSizeWide16x8 a d y x => putObjSizeOp 0b0100 a d y x
  | .objSizeWide32x8 a d y x => putObjSizeOp 0b0101 a d y x
  | .objSizeWide32x16 a d y x => putObjSizeOp 0b0110 a d y x
  | .objSizeWide64x32 a d y x => putObjSizeOp 0b0111 a d y x
  | .objSizeTall8x16 a d y x => putObjSizeOp 0b1000 a d y x
  | .objSizeTall8x32 a d y x => putObjSizeOp 0b1001 a d y x
  | .objSizeTall16x32 a d y x => putObjSizeOp 0b1010 a d y x
  | .objSizeTall32x64 a d y x => putObjSizeOp 0b1011 a d y x
  | .objSizeReserved size => [0x8B, 0b1100 + size]
  | .windowIn h v x y w hs =>
      [0x2B] ++ putHalf h ++ putHalf v ++ putHalf x ++ putHalf y ++ putHalf w ++ putHalf hs
  | .windowEnables x y => [0x2C, x, y]
  | .effectNone w top bot => putEffectOp w top bot
  | .effectAlpha w top bot => putEffectOp w top bot
  | .effectBrighten w top bot => putEffectOp w top bot
  | .effectDarken w top bot => putEffectOp w top bot
  | .semiForcedAlpha t bot => [0x31] ++ putWord t ++ putContributor bot
  | .composeLine y => [0x32, y]
  | .renderFrame => [0x33]
  | .renderFrameMode0 => [0x8D] ++ putWord 0x00000000
  | .renderFrameGbaText => [0x8D] ++ putWord 0x00000001
  | .renderFrameGbaMixed => [0x8D] ++ putWord 0x00000002
  | .renderFrameDmg => [0x8D] ++ putWord 0x00000007
  | .renderFrameNop m => [0x8D] ++ putWord m
  | .forcedBlankGba w => [0x8E] ++ putHalf w
  | .forcedBlankFill => [0x3A]
  | .forcedBlankDmg w => [0x8F, w]
  | .forcedBlankMode0 => [0x3C]
  | .dmgTileUnsigned w t => [0x90, w, t]
  | .dmgTileSigned w t => [0x90, w, t]
  | .dmgObj8 w i => [0x91, w, i]
  | .dmgObj16 w i => [0x91, w, i]
  | .dmgSpriteEntry b0 b1 b2 b3 x y => [0x41, b0, b1, b2, b3, x, y]
  | .dmgPixel x y sel => [0x42, x, y, BitVec.ofNat 8 sel.length] ++ sel
  | .m0BgText b y => putM0BgOp 0x43 b y
  | .m0BgAffine b y => putM0BgOp 0x44 b y
  | .m0SpriteLine y => [0x45] ++ putHalf y
  | .m0ComposeLine y => [0x46] ++ putHalf y

/-! ### A bare word of the opcode table -/

/-- The format whose selector a bare table word is read as, from the number of bits the table gives its row:
the table's words are values of different selector fields and do not say which field they are, so where two rows
have the same bits the model fixes one (assumption 3). -/
def tableTag (nbits w : Nat) : Option Byte :=
  match nbits with
  | 32 => some 0x8D
  | 24 => some 0x8B
  | 16 =>
    if w.testBit 13 then some 0x88
    else if w.testBit 8 || w.testBit 9 then some 0x89
    else if w.testBit 10 || w.testBit 11 then some 0x8A
    else some 0x89
  | 8 =>
    if w.testBit 6 then some 0x8C
    else if w.testBit 7 then some 0x80
    else if w.testBit 4 then some 0x90
    else if w % 16 = 0 then some 0x80
    else if w % 16 < 4 then some 0x82
    else if w % 16 = 4 then some 0x91
    else some 0x8B
  | _ => none

/-- The bytes of a bare table word: its format byte, its bytes as the hardware stores them (the low one
first), and zeros for every operand. -/
def tableBytes (nbits w : Nat) : Option (List Byte) :=
  (tableTag nbits w).map fun tag =>
    tag :: (List.range (nbits / 8)).map (fun k => BitVec.ofNat 8 (w / 2 ^ (8 * k)))
      ++ List.replicate 40 0

/-- The instruction the decoder reads from the bare word `w` of a row to which the opcode table gives `nbits`
bits, every bit above them zero. -/
def decodeTableWord (nbits w : Nat) : Option Instr :=
  match tableBytes nbits w with
  | none => none
  | some bs =>
    match decode bs with
    | .ok (i, _) => some i
    | .error _ => none

end Sys2Proof
end

