-- ==== Sys2Proof/Machine/State.lean ====
section
/-! DEFINITION. The state of the core: every region of 10_state.md R101 to R107, `Registers` (R109), the
per-scanline line buffers (R135), and two fields of the model's own, the result of the last operation that
returns a value and the host's pending commands. -/

namespace Sys2Proof.Machine

open Sys2Proof

/-- A sparse array: (index, value) pairs in one canonical form (`Memory.wf` in Machine/Ops.lean), indices strictly
rising, no entry equal to what an unlisted index reads as. A region of bytes is a `Memory Byte`, which is a list of
`Host.Cell`. -/
abbrev Memory (α : Type) := List (Nat × α)

/-- One column of a background's line buffers (10_state.md R135): the colour word (0 = transparent), the layer
priority and, in mode 0, the tile priority. -/
structure BgCol where
  colour : Word
  prio : Byte
  tprio : BitVec 3
deriving DecidableEq, Repr

/-- A transparent background column (10_state.md R135). -/
def BgCol.transparent : BgCol := ⟨0, 0, 0⟩

/-- One column of the sprite line buffers (10_state.md R135): `spr_line`, `spr_prio`, `spr_semi`, `objwin`. -/
structure SprCol where
  colour : Word
  prio : Byte
  semi : Bool
  objwin : Bool
deriving DecidableEq, Repr

/-- An empty sprite column (45_sprites.md R651): priority 0xFF means empty. -/
def SprCol.empty : SprCol := ⟨0, 0xFF, false, false⟩

/-- The line buffers of one scanline (10_state.md R135). An unlisted column is transparent or empty, so an empty list is
a buffer just created, or discarded. -/
structure LineBuffers where
  bg0 : Memory BgCol
  bg1 : Memory BgCol
  bg2 : Memory BgCol
  bg3 : Memory BgCol
  spr : Memory SprCol
deriving DecidableEq, Repr

/-- The line buffers before a scanline starts and after it ends. -/
def LineBuffers.cleared : LineBuffers := ⟨[], [], [], [], []⟩

/-- The host-owned structure of 10_state.md R109. -/
structure Registers where
  mode : Word
  frameWidth : Word
deriving DecidableEq, Repr

/-- What an operation gives back to its caller: the `return` of its rule's pseudocode. -/
inductive Result where
  /-- nothing has been returned yet -/
  | nothing
  /-- a value read (40_memory_views.md R401 to R403, R406), zero-extended -/
  | value (v : Word)
  /-- a reference to the framebuffer array (R407) -/
  | framebuffer
  /-- a palette-relative colour index (41_pixel_decoders.md R455) -/
  | index (i : Byte)
  /-- a coordinate pair (41_pixel_decoders.md R452) -/
  | point (x y : Int)
  /-- an RGBA word -/
  | colour (w : Word)
  /-- the size and bounding box of a sprite (45_sprites.md R655): `w`, `h`, `bw`, `bh`, `xs`, `ys` -/
  | bounds (w h bw bh xs ys : Int)
  /-- the sprite has no size and is not drawn (45_sprites.md R653) -/
  | noSize
  /-- whether a pixel lies in a window (46_compositor.md R722) -/
  | inside (b : Bool)
  /-- a layer-enable set (46_compositor.md R723) -/
  | enables (e : BitVec 6)
  /-- a tile address inside a view (41_pixel_decoders.md R450) -/
  | address (a : Int)
  /-- the height and the fields of a DMG sprite (48_dmg.md R855): `hgt`, `sy`, `sxs`, `T`, `F` -/
  | dmgObj (hgt sy sxs : Int) (t f : Byte)
  /-- the colour index of a sprite at a column, or none where it does not cover it (48_dmg.md R857) -/
  | indexIfCovered (i : Option Byte)
deriving DecidableEq, Repr

/-- The state of the machine between two host accesses. -/
structure State where
  vram : Memory Byte
  io : Memory Byte
  bgPltt : Memory Byte
  objPltt : Memory Byte
  oam : Memory Byte
  fb : Memory Word
  regs : Registers
  line : LineBuffers
  result : Result
  port : List Byte
deriving DecidableEq, Repr

/-- The reset state (10_state.md R140, 70_reset_and_hazards.md R1100): every region and `Registers` zero. No line buffer
exists, nothing has been returned and the host has issued no command (assumptions 1, 5, 10). -/
def State.reset : State where
  vram := []
  io := []
  bgPltt := []
  objPltt := []
  oam := []
  fb := []
  regs := ⟨0, 0⟩
  line := LineBuffers.cleared
  result := .nothing
  port := []

/-- The core raises no exception of any kind (60_exceptions.md R1000), so no step faults: there is no reason. -/
inductive Fault
deriving DecidableEq, Repr

/-- Why a step has no meaning. -/
inductive Refusal where
  /-- Raised by `exec` for an operation that has no meaning yet; safe. No arm raises it. -/
  | notModelled (mnemonic : String)
  /-- Raised by `step` when the host's pending bytes are no well-formed command; safe: the spec has no encoding of a
  command, so such bytes stand for nothing the hardware does (assumption 24). -/
  | badCommand (e : DecodeError)
deriving DecidableEq, Repr

/-- What the command port offers to a step. -/
inductive Fetched where
  /-- the host has issued no command -/
  | idle
  /-- the next command, and the bytes after it -/
  | command (i : Instr) (rest : List Byte)
  /-- the bytes are no command -/
  | bad (e : DecodeError)
deriving DecidableEq, Repr

end Sys2Proof.Machine
end

