-- ==== Sys2Proof/Machine/Ops.lean ====
section
/-! DEFINITION. The named operations over the regions, the line buffers, the result and the command port
(40_memory_views.md, 20_memory.md). The spec gives this hardware no exception (60_exceptions.md R1000, R1006), so there is
no operation that takes one and none that returns from one. -/

namespace Sys2Proof.Machine

open Sys2Proof

/-! ### Sparse arrays -/

/-- What index `a` reads as: its entry, or `d` where there is none. -/
def Memory.read {α : Type} (d : α) (m : Memory α) (a : Nat) : α := (m.lookup a).getD d

/-- The entries of a run of values that starts at index `base`. -/
def Memory.cells {α : Type} [DecidableEq α] (d : α) (base : Nat) : List α → Memory α
  | [] => []
  | v :: vs =>
    if v = d then Memory.cells d (base + 1) vs else (base, v) :: Memory.cells d (base + 1) vs

/-- Write a run of values at the indices from `base`. -/
def Memory.writeBlock {α : Type} [DecidableEq α] (d : α) (m : Memory α) (base : Nat) (vs : List α) :
    Memory α :=
  m.filter (fun c => decide (c.1 < base)) ++ Memory.cells d base vs
    ++ m.filter (fun c => decide (base + vs.length ≤ c.1))

/-- Write one value. -/
def Memory.write {α : Type} [DecidableEq α] (d : α) (m : Memory α) (a : Nat) (v : α) : Memory α :=
  Memory.writeBlock d m a [v]

/-- The canonical form: indices strictly rising, no entry equal to what an unlisted index reads as. -/
abbrev Memory.wf {α : Type} [DecidableEq α] (d : α) (m : Memory α) : Prop :=
  m.Pairwise (fun p q => p.1 < q.1) ∧ ∀ c ∈ m, c.2 ≠ d

/-- Every entry's index is below `size`. -/
abbrev Memory.below {α : Type} (size : Nat) (m : Memory α) : Prop := ∀ c ∈ m, c.1 < size

/-! ### Views and bounds-checked reads -/

/-- `size(V)` of 40_memory_views.md R400 (`TILES`: 49_mode0.md R908). -/
def viewSize : View → Nat
  | .vramGba => Config.gbaVramLimit
  | .vramDmg => Config.dmgVramLimit
  | .vramM0 => Config.vramSize
  | .m0Tiles => Config.m0TileBytes
  | .io => Config.ioSize
  | .bgPltt => Config.plttSize
  | .objPltt => Config.plttSize
  | .oam => Config.oamSize

/-- `InRange` of 40_memory_views.md R400. -/
def inRange (size : Nat) (off : Int) (n : Nat) : Bool :=
  decide (0 ≤ off) && decide (off + n ≤ size)

/-- The bytes of one width. -/
def widthBytes : Width → Nat
  | .w1 => 1
  | .w2 => 2
  | .w4 => 4

/-- The `n`-byte little-endian value at `o` (20_memory.md R200), zero-extended. -/
def assemble (rd : Nat → Byte) (o : Nat) : Width → Word
  | .w1 => 0#24 ++ rd o
  | .w2 => 0#16 ++ rd (o + 1) ++ rd o
  | .w4 => rd (o + 3) ++ rd (o + 2) ++ rd (o + 1) ++ rd o

/-- `MemRead` of 00_scope.md R15: the value of `n` bytes, 0 as a whole where the access leaves the region
(20_memory.md R205). -/
def memRead (rd : Nat → Byte) (size : Nat) (off : Int) (n : Width) : Word :=
  if inRange size off (widthBytes n) then assemble rd off.toNat n else 0

/-- A value of `n` bytes of VRAM as mode 0 sees it (the view `VRAM_M0`). -/
def m0Read (vram : Memory Byte) (off : Int) (n : Width) : Word :=
  memRead (Memory.read 0 vram) Config.vramSize off n

/-- The unsigned value of a placed field of the mode-0 record: 0 where it leaves VRAM (49_mode0.md R900). -/
def m0Field (L : Config.Mode0Layout) (vram : Memory Byte) (f : Config.M0Field) : Nat :=
  let p := L.place f
  (m0Read vram p.off p.n).toNat / 2 ^ p.lo % 2 ^ p.len

/-- The stored byte at index `o` of a view. -/
def State.viewByte (s : State) (v : View) (o : Nat) : Byte :=
  match v with
  | .vramGba | .vramDmg | .vramM0 => Memory.read 0 s.vram o
  | .m0Tiles => BitVec.ofNat 8 (m0Field Config.mode0Layout s.vram (.tile o))
  | .io => Memory.read 0 s.io o
  | .bgPltt => Memory.read 0 s.bgPltt o
  | .objPltt => Memory.read 0 s.objPltt o
  | .oam => Memory.read 0 s.oam o

/-- `read_u8` (40_memory_views.md R401). -/
def State.readU8 (s : State) (v : View) (off : Int) : Byte :=
  (memRead (s.viewByte v) (viewSize v) off .w1).setWidth 8

/-- `read_u16_le` (40_memory_views.md R402). -/
def State.readU16 (s : State) (v : View) (off : Int) : Half :=
  (memRead (s.viewByte v) (viewSize v) off .w2).setWidth 16

/-- `read_u32_le` (40_memory_views.md R403). -/
def State.readU32 (s : State) (v : View) (off : Int) : Word :=
  memRead (s.viewByte v) (viewSize v) off .w4

/-! The typed helpers of 40_memory_views.md R404. -/

def State.io16 (s : State) (o : Int) : Half := s.readU16 .io o
def State.io32 (s : State) (o : Int) : Word := s.readU32 .io o
def State.oam16 (s : State) (k : Int) : Half := s.readU16 .oam (2 * k)
def State.bgpal (s : State) (i : Int) : Half := s.readU16 .bgPltt (2 * i)
def State.objpal (s : State) (i : Int) : Half := s.readU16 .objPltt (2 * i)
def State.gvram8 (s : State) (o : Int) : Byte := s.readU8 .vramGba o
def State.gvram16 (s : State) (o : Int) : Half := s.readU16 .vramGba o
def State.dvram8 (s : State) (o : Int) : Byte := s.readU8 .vramDmg o

/-! ### The host's port -/

/-- Bytes of a region (20_memory.md R208). -/
def regionSize : Region → Nat
  | .vram => Config.vramSize
  | .io => Config.ioSize
  | .bgPltt => Config.plttSize
  | .objPltt => Config.plttSize
  | .oam => Config.oamSize
  | .fb => 4 * Config.fbWords

/-- The stored byte at index `o` of a region; a framebuffer word lies R, G, B, A from its lowest byte up
(20_memory.md R201). -/
def State.regionByte (s : State) (r : Region) (o : Nat) : Byte :=
  match r with
  | .vram => Memory.read 0 s.vram o
  | .io => Memory.read 0 s.io o
  | .bgPltt => Memory.read 0 s.bgPltt o
  | .objPltt => Memory.read 0 s.objPltt o
  | .oam => Memory.read 0 s.oam o
  | .fb => (Memory.read 0 s.fb (o / 4)).extractLsb' (8 * (o % 4)) 8

/-- A word with its byte `k` replaced, byte 0 the lowest. -/
def setByte (w : Word) (k : Nat) (b : Byte) : Word :=
  assemble (fun j => if j = k then b else w.extractLsb' (8 * j) 8) 0 .w4

/-- Store one byte of a region. The host writes every byte of every region, the framebuffer too (60_exceptions.md R1008,
70_reset_and_hazards.md R1102); a framebuffer byte lies in its word as 20_memory.md R201 has it. DEDUCED: that HOST_WRITE is the
host's means for it, whose operand list in 40_memory_views.md R405 does not name FB; 10_state.md R107 says what of the core writes
FB (assumption 16). -/
def State.setRegionByte (s : State) (r : Region) (o : Nat) (b : Byte) : State :=
  match r with
  | .vram => { s with vram := Memory.write 0 s.vram o b }
  | .io => { s with io := Memory.write 0 s.io o b }
  | .bgPltt => { s with bgPltt := Memory.write 0 s.bgPltt o b }
  | .objPltt => { s with objPltt := Memory.write 0 s.objPltt o b }
  | .oam => { s with oam := Memory.write 0 s.oam o b }
  | .fb => { s with fb := Memory.write 0 s.fb (o / 4) (setByte (Memory.read 0 s.fb (o / 4)) (o % 4) b) }

/-- One byte of a host write: dropped outside the region (40_memory_views.md R405). -/
def State.pokeByte (s : State) (r : Region) (off : Int) (b : Byte) : State :=
  if 0 ≤ off ∧ off < regionSize r then s.setRegionByte r off.toNat b else s

/-- `MemWrite` (40_memory_views.md R405). -/
def State.memWrite (s : State) (r : Region) (off : Int) (n : Width) (v : Word) : State :=
  (List.range (widthBytes n)).foldl (fun s (k : Nat) => s.pokeByte r (off + k) (v.extractLsb' (8 * k) 8)) s

/-- `FILL` (30_encoding.md R321): `len` byte writes of one value. -/
def State.memFill (s : State) (r : Region) (off : Int) (len : Nat) (b : Byte) : State :=
  (List.range len).foldl (fun s (k : Nat) => s.pokeByte r (off + k) b) s

/-- A host read (40_memory_views.md R406). Its widths, and the 0 for a read that leaves the region: DESIGN CHOICE
(assumption 31). -/
def State.hostRead (s : State) (r : Region) (off : Int) (n : Width) : Word :=
  memRead (s.regionByte r) (regionSize r) off n

/-- A host write in each of its forms. -/
def State.hostWrite (s : State) : HostOp → State
  | .store r off n v => s.memWrite r off.toInt n v
  | .fill r off len b => s.memFill r off.toInt len.toNat b
  | .mode v => { s with regs := { s.regs with mode := v } }
  | .frameWidth v => { s with regs := { s.regs with frameWidth := v } }

/-! ### Line buffers, result, framebuffer, command port -/

/-- The line buffers of background `b`. -/
def LineBuffers.bg (lb : LineBuffers) : Nat → Memory BgCol
  | 0 => lb.bg0
  | 1 => lb.bg1
  | 2 => lb.bg2
  | _ => lb.bg3

/-- Replace the line buffers of background `b`. -/
def LineBuffers.setBg (lb : LineBuffers) (b : Nat) (m : Memory BgCol) : LineBuffers :=
  match b with
  | 0 => { lb with bg0 := m }
  | 1 => { lb with bg1 := m }
  | 2 => { lb with bg2 := m }
  | _ => { lb with bg3 := m }

/-- Column `x` of background `b`. -/
def LineBuffers.bgCol (lb : LineBuffers) (b x : Nat) : BgCol :=
  Memory.read BgCol.transparent (lb.bg b) x

/-- Column `x` of the sprite line. -/
def LineBuffers.sprCol (lb : LineBuffers) (x : Nat) : SprCol := Memory.read SprCol.empty lb.spr x

/-- A background's line buffers of `w` columns, each column given by `f`. -/
def bgBuffer (w : Nat) (f : Nat → BgCol) : Memory BgCol :=
  Memory.writeBlock BgCol.transparent [] 0 ((List.range w).map f)

/-- The sprite line buffers of `w` columns, each column given by `f`. -/
def sprBuffer (w : Nat) (f : Nat → SprCol) : Memory SprCol :=
  Memory.writeBlock SprCol.empty [] 0 ((List.range w).map f)

def State.setBgLine (s : State) (b : Nat) (m : Memory BgCol) : State :=
  { s with line := s.line.setBg b m }

def State.setSprLine (s : State) (m : Memory SprCol) : State :=
  { s with line := { s.line with spr := m } }

/-- Give a value back to the caller. -/
def State.give (s : State) (r : Result) : State := { s with result := r }

/-- `FB[i]`. -/
def State.fbWord (s : State) (i : Nat) : Word := Memory.read 0 s.fb i

/-- Write row `y` of a frame of width `w`: column `x` goes to `FB[y*w + x]` (47_dispatch.md R808). -/
def writeRow (fb : Memory Word) (w y : Nat) (row : List Word) : Memory Word :=
  Memory.writeBlock 0 fb (y * w) row

/-- Write the rows 0 to `h - 1` of a frame of width `w`, in order (20_memory.md R213). -/
def writeFrame (fb : Memory Word) (w h : Nat) (row : Nat → List Word) : Memory Word :=
  (List.range h).foldl (fun fb y => writeRow fb w y (row y)) fb

/-- What the command port offers: the instruction its front bytes decode to. -/
def State.fetch (s : State) : Fetched :=
  if s.port = [] then .idle
  else
    match decode s.port with
    | .ok (i, rest) => .command i rest
    | .error e => .bad e

/-- The command has been taken from the port. -/
def State.advance (s : State) (rest : List Byte) : State := { s with port := rest }

/-- The host issues these bytes, and nothing else is pending. -/
def State.withPort (s : State) (bs : List Byte) : State := { s with port := bs }

end Sys2Proof.Machine
end

