-- ==== Sys2Proof/Machine/Operands.lean ====
section
/-! DEFINITION. Operand forms: bit fields and sign extension (00_scope.md R12, R13), the bit layouts of map entries,
sprite entries and palettes (30_encoding.md), fixed-point operands, tile addresses and flips. Coordinates and
addresses are mathematical integers (R11); `/` and `%` on `Int` are the floor quotient and the non-negative
remainder of R14, and `>> 8` is `/ 256`. -/

namespace Sys2Proof.Machine

open Sys2Proof

/-- `v[lo+len-1 : lo]` (00_scope.md R12). -/
def bits {n : Nat} (v : BitVec n) (lo len : Nat) : BitVec len := v.extractLsb' lo len

/-- The same field as a number. -/
def bitsN {n : Nat} (v : BitVec n) (lo len : Nat) : Nat := (bits v lo len).toNat

/-- `v[i]`. -/
def bit {n : Nat} (v : BitVec n) (i : Nat) : Bool := v.getLsbD i

/-- `sext_8`, `sext_16`, `sext_28` (00_scope.md R13). -/
def sext8 (v : Byte) : Int := v.toInt
def sext16 (v : Half) : Int := v.toInt
def sext28 (v : Word) : Int := (bits v 0 28).toInt

/-- `sext_len` of an unsigned value. -/
def sextN (len : Nat) (v : Nat) : Int := (BitVec.ofNat len v).toInt

/-! ### Map entries -/

/-- Text map entry (30_encoding.md R301). -/
structure TextEntry where
  tile : Nat
  hflip : Bool
  vflip : Bool
  pal : Nat
deriving DecidableEq, Repr

def textEntry (e : Half) : TextEntry :=
  { tile := bitsN e 0 10, hflip := bit e 10, vflip := bit e 11, pal := bitsN e 12 4 }

/-- Superset map entry (30_encoding.md R303); `mosaic` and the reserved bits have no effect. -/
structure SupersetEntry where
  tile : Nat
  pal : Nat
  tprio : BitVec 3
  hflip : Bool
  vflip : Bool
deriving DecidableEq, Repr

def supersetEntry (e : Word) : SupersetEntry :=
  { tile := bitsN e 0 16, pal := bitsN e 16 8, tprio := bits e 24 3, hflip := bit e 27, vflip := bit e 28 }

/-! ### Sprite entries -/

/-- `AFFINE`, `DBL` of attr0 (30_encoding.md R323). -/
inductive SpriteKind where
  | normal | affine | affineDbl | hidden
deriving DecidableEq, Repr

/-- `OMODE` of attr0 (30_encoding.md R304). -/
inductive ObjMode where
  | normal | semi | objwin | hidden
deriving DecidableEq, Repr

def spriteKind (a0 : Half) : SpriteKind :=
  match bit a0 8, bit a0 9 with
  | false, false => .normal
  | false, true => .hidden
  | true, false => .affine
  | true, true => .affineDbl

def objMode (a0 : Half) : ObjMode :=
  match bit a0 11, bit a0 10 with
  | false, false => .normal
  | false, true => .semi
  | true, false => .objwin
  | true, true => .hidden

/-- The other fields of a GBA sprite entry (30_encoding.md R304); `MOSAIC` has no effect. -/
structure ObjAttr where
  omode : ObjMode
  bpp8 : Bool
  shape : Nat
  size : Nat
  yRaw : Nat
  xRaw : Nat
  group : Nat
  hflip : Bool
  vflip : Bool
  tile : Nat
  prio : Byte
  pal : Nat
deriving DecidableEq, Repr

def objAttr (a0 a1 a2 : Half) : ObjAttr :=
  { omode := objMode a0, bpp8 := bit a0 13, shape := bitsN a0 14 2, size := bitsN a1 14 2,
    yRaw := bitsN a0 0 8, xRaw := bitsN a1 0 9, group := bitsN a1 9 5,
    hflip := bit a1 12, vflip := bit a1 13,
    tile := bitsN a2 0 10, prio := (bits a2 10 2).setWidth 8, pal := bitsN a2 12 4 }

/-- The sprite size table (30_encoding.md R314); shape 3 has no row. -/
def objSize (shape size : Nat) : Option (Int × Int) :=
  match shape, size with
  | 0, 0 => some (8, 8)
  | 0, 1 => some (16, 16)
  | 0, 2 => some (32, 32)
  | 0, 3 => some (64, 64)
  | 1, 0 => some (16, 8)
  | 1, 1 => some (32, 8)
  | 1, 2 => some (32, 16)
  | 1, 3 => some (64, 32)
  | 2, 0 => some (8, 16)
  | 2, 1 => some (8, 32)
  | 2, 2 => some (16, 32)
  | 2, 3 => some (32, 64)
  | _, _ => none

/-- Sign-folding of sprite positions (30_encoding.md R315). -/
def foldY (y : Nat) : Int := if 160 ≤ y then (y : Int) - 256 else y
def foldX (x : Nat) : Int := if 240 ≤ x then (x : Int) - 512 else x

/-- A 2x2 matrix of 8.8 fixed-point values. -/
structure Matrix where
  pa : Int
  pb : Int
  pc : Int
  pd : Int
deriving DecidableEq, Repr

/-- The matrix of affine group `g` in OAM (30_encoding.md R305, 45_sprites.md R654). -/
def State.spriteMatrix (s : State) (g : Nat) : Matrix :=
  { pa := sext16 (s.oam16 (16 * g + 3)), pb := sext16 (s.oam16 (16 * g + 7)),
    pc := sext16 (s.oam16 (16 * g + 11)), pd := sext16 (s.oam16 (16 * g + 15)) }

/-! ### Tile addresses and flips -/

/-- `tile_addr_bg` (41_pixel_decoders.md R450). -/
def tileAddrBg (cb : Int) (t : Nat) (bpp8 : Bool) : Int := cb + t * (if bpp8 then 64 else 32)

/-- `tile_addr_obj` (41_pixel_decoders.md R450), `tn` in 32-byte units. -/
def tileAddrObj (tn : Int) : Int := (Config.objTileBase : Int) + tn * 32

/-- `tile_addr_dmg` (41_pixel_decoders.md R450). -/
def tileAddrDmg (t : Byte) (unsigned : Bool) : Int :=
  if unsigned then (t.toNat : Int) * 16 else 0x1000 + sext8 t * 16

/-- `tile_addr_m0` (41_pixel_decoders.md R450). -/
def tileAddrM0 (t : Nat) (bpp8 : Bool) : Int := (t : Int) * (if bpp8 then 64 else 32)

/-- `flip` (41_pixel_decoders.md R452). -/
def flipPoint (px py : Int) (hf vf : Bool) (wpx hpx : Int) : Int × Int :=
  (if hf then wpx - 1 - px else px, if vf then hpx - 1 - py else py)

/-- The cursor of an affine line at column `x`: it starts at `t0` and advances by `step` on every column
(44_affine_bg.md R603). -/
def cursorAt (t0 step : Int) (x : Nat) : Int := t0 + step * x

/-! ### The typed view of the mode-0 record -/

/-- A window rectangle of the mode-0 globals. -/
structure M0Window where
  x1 : Int
  x2 : Int
  y1 : Int
  y2 : Int
deriving DecidableEq, Repr

/-- The global PPU registers `G` (10_state.md R130). -/
structure M0Globals where
  forcedBlank : Bool := false
  objOn : Bool := false
  win0On : Bool := false
  win1On : Bool := false
  objwinOn : Bool := false
  win0 : M0Window := ⟨0, 0, 0, 0⟩
  win1 : M0Window := ⟨0, 0, 0, 0⟩
  winin0 : BitVec 6 := 0
  winin1 : BitVec 6 := 0
  winout : BitVec 6 := 0
  winobj : BitVec 6 := 0
  effect : BitVec 2 := 0
  firstTarget : BitVec 6 := 0
  secondTarget : BitVec 6 := 0
  eva : Nat := 0
  evb : Nat := 0
  evy : Nat := 0
deriving DecidableEq, Repr

/-- A background control record `BG[b]` (10_state.md R130). -/
structure M0Bg where
  enabled : Bool := false
  widthTiles : Nat := 0
  heightTiles : Nat := 0
  bpp8 : Bool := false
  wrapX : Bool := false
  wrapY : Bool := false
  affine : Bool := false
  matrix : Matrix := ⟨0, 0, 0, 0⟩
  ox : Int := 0
  oy : Int := 0
  scrollX : Int := 0
  scrollY : Int := 0
  layerPriority : Byte := 0
deriving DecidableEq, Repr

/-- A sprite record `SPR[s]` (10_state.md R130). -/
structure M0Sprite where
  x : Int := 0
  y : Int := 0
  w8 : Nat := 0
  h8 : Nat := 0
  tile : Nat := 0
  palette : Nat := 0
  priority : Nat := 0
  affineIndex : Nat := 0
  enabled : Bool := false
  bpp8 : Bool := false
  hflip : Bool := false
  vflip : Bool := false
  affine : Bool := false
  doubleSize : Bool := false
  semi : Bool := false
  objwin : Bool := false
deriving DecidableEq, Repr

/-- A line of `LINE_AFFINE` (10_state.md R130). -/
structure M0LineAffine where
  valid : Bool := false
  tx : Int := 0
  ty : Int := 0
deriving DecidableEq, Repr

/-- The typed view of the mode-0 record (10_state.md R130), on which 49_mode0.md defines mode 0. It is computed from
VRAM at each use and is no part of the state. -/
structure M0Record where
  g : M0Globals := {}
  bg : Nat → M0Bg := fun _ => {}
  map : Nat → Nat → Word := fun _ _ => 0
  tile : Nat → Byte := fun _ => 0
  pal : Nat → Nat → Byte × Byte × Byte := fun _ _ => (0, 0, 0)
  saff : Nat → Matrix := fun _ => ⟨0, 0, 0, 0⟩
  spr : Nat → M0Sprite := fun _ => {}
  lineScroll : Nat → Nat → Int × Int := fun _ _ => (0, 0)
  lineAffine : Nat → Nat → M0LineAffine := fun _ _ => {}
  tilemapEntries : Nat := 0

/-- The value of each kind of mode-0 field: a Boolean is true when it is not 0, a signed field is the two's complement
of its placed width, a field to which the spec gives a width is cut to it. 10_state.md R108 leaves the placed widths open, so
all of this is a DESIGN CHOICE (assumption 7). -/
structure M0Reader where
  unsigned : Config.M0Field → Nat
  signed : Config.M0Field → Int

def m0Reader (L : Config.Mode0Layout) (vram : Memory Byte) : M0Reader where
  unsigned := m0Field L vram
  signed := fun f => sextN (L.place f).len (m0Field L vram f)

def M0Reader.bool (r : M0Reader) (f : Config.M0Field) : Bool := decide (r.unsigned f ≠ 0)

/-- An s16 field and a signed 24.8 field (10_state.md R130). R108 leaves the placed width open: a field placed narrower than
16 or 32 bits is sign-extended from its placed width, a wider one is cut to its low 16 or 32 bits (DESIGN CHOICE,
assumption 7). -/
def M0Reader.s16 (r : M0Reader) (f : Config.M0Field) : Int := (BitVec.ofInt 16 (r.signed f)).toInt
def M0Reader.s24p8 (r : M0Reader) (f : Config.M0Field) : Int := (BitVec.ofInt 32 (r.signed f)).toInt

def M0Reader.globals (r : M0Reader) : M0Globals :=
  { forcedBlank := r.bool .forcedBlank, objOn := r.bool .objOn,
    win0On := r.bool .win0On, win1On := r.bool .win1On, objwinOn := r.bool .objwinOn,
    win0 := ⟨r.unsigned .win0X1, r.unsigned .win0X2, r.unsigned .win0Y1, r.unsigned .win0Y2⟩,
    win1 := ⟨r.unsigned .win1X1, r.unsigned .win1X2, r.unsigned .win1Y1, r.unsigned .win1Y2⟩,
    winin0 := BitVec.ofNat 6 (r.unsigned .winin0), winin1 := BitVec.ofNat 6 (r.unsigned .winin1),
    winout := BitVec.ofNat 6 (r.unsigned .winout), winobj := BitVec.ofNat 6 (r.unsigned .winobj),
    effect := BitVec.ofNat 2 (r.unsigned .effect),
    firstTarget := BitVec.ofNat 6 (r.unsigned .firstTarget),
    secondTarget := BitVec.ofNat 6 (r.unsigned .secondTarget),
    eva := r.unsigned .eva, evb := r.unsigned .evb, evy := r.unsigned .evy }

def M0Reader.background (r : M0Reader) (b : Nat) : M0Bg :=
  { enabled := r.bool (.bgEnabled b),
    widthTiles := r.unsigned (.bgWidthTiles b), heightTiles := r.unsigned (.bgHeightTiles b),
    bpp8 := r.bool (.bgBpp8 b), wrapX := r.bool (.bgWrapX b), wrapY := r.bool (.bgWrapY b),
    affine := r.bool (.bgAffine b),
    matrix := ⟨r.s16 (.bgPa b), r.s16 (.bgPb b), r.s16 (.bgPc b), r.s16 (.bgPd b)⟩,
    ox := r.s24p8 (.bgOx b), oy := r.s24p8 (.bgOy b),
    scrollX := r.signed (.bgScrollX b), scrollY := r.signed (.bgScrollY b),
    layerPriority := BitVec.ofNat 8 (r.unsigned (.bgLayerPriority b)) }

def M0Reader.sprite (r : M0Reader) (s : Nat) : M0Sprite :=
  { x := r.signed (.sprX s), y := r.signed (.sprY s),
    w8 := r.unsigned (.sprW8 s), h8 := r.unsigned (.sprH8 s), tile := r.unsigned (.sprTile s),
    palette := r.unsigned (.sprPalette s) % 256, priority := r.unsigned (.sprPriority s),
    affineIndex := r.unsigned (.sprAffineIndex s), enabled := r.bool (.sprEnabled s),
    bpp8 := r.bool (.sprBpp8 s), hflip := r.bool (.sprHflip s), vflip := r.bool (.sprVflip s),
    affine := r.bool (.sprAffine s), doubleSize := r.bool (.sprDoubleSize s),
    semi := r.bool (.sprSemi s), objwin := r.bool (.sprObjwin s) }

def M0Reader.record (r : M0Reader) (tilemapEntries : Nat) : M0Record :=
  { g := r.globals, bg := r.background,
    map := fun b k => BitVec.ofNat 32 (r.unsigned (.map b k)),
    tile := fun o => BitVec.ofNat 8 (r.unsigned (.tile o)),
    pal := fun k i => (BitVec.ofNat 8 (r.unsigned (.palR k i)), BitVec.ofNat 8 (r.unsigned (.palG k i)),
      BitVec.ofNat 8 (r.unsigned (.palB k i))),
    saff := fun m => ⟨r.s16 (.saffPa m), r.s16 (.saffPb m), r.s16 (.saffPc m), r.s16 (.saffPd m)⟩,
    spr := r.sprite,
    lineScroll := fun b l => (r.signed (.lineScrollX b l), r.signed (.lineScrollY b l)),
    lineAffine := fun b l => ⟨r.bool (.lineValid b l), r.s24p8 (.lineTx b l), r.s24p8 (.lineTy b l)⟩,
    tilemapEntries := tilemapEntries }

/-- The mode-0 record that VRAM holds under a layout. -/
def m0Record (L : Config.Mode0Layout) (vram : Memory Byte) : M0Record :=
  (m0Reader L vram).record L.tilemapEntries

/-- The mode-0 record of a state. -/
def State.m0 (s : State) : M0Record := m0Record Config.mode0Layout s.vram

/-- A read of `TILES`: 0 outside its 2 MiB (49_mode0.md R908). -/
def M0Record.readTile (M : M0Record) (off : Int) : Byte :=
  if inRange Config.m0TileBytes off 1 then M.tile off.toNat else 0

end Sys2Proof.Machine
end

