-- ==== Sys2Proof/Machine/Flags.lean ====
section
/-! DEFINITION. The hardware has no condition flags (10_state.md R100): no operation writes one. What this file holds is the
register fields that switch and parametrise the pipelines: the GBA registers in `IO` (10_state.md R110 to R119) and the DMG
registers in VRAM (R125 to R127), each read through the bounds-checked accessors at every use (40_memory_views.md R408). -/

namespace Sys2Proof.Machine

open Sys2Proof

/-! ### GBA registers -/

/-- `DISPCNT` (10_state.md R110). -/
def State.dispcnt (s : State) : Half := s.io16 0x00
def State.obj1d (s : State) : Bool := bit s.dispcnt 6
def State.forcedBlankGba (s : State) : Bool := bit s.dispcnt 7
/-- `BGb_ON`. -/
def State.bgOn (s : State) (b : Nat) : Bool := bit s.dispcnt (8 + b)
def State.objOn (s : State) : Bool := bit s.dispcnt 12
def State.win0On (s : State) : Bool := bit s.dispcnt 13
def State.win1On (s : State) : Bool := bit s.dispcnt 14
def State.objwinOn (s : State) : Bool := bit s.dispcnt 15

/-- The fields of a `BGxCNT` word (10_state.md R112). -/
structure BgCnt where
  prio : Byte
  /-- character base in bytes -/
  cb : Int
  bpp8 : Bool
  /-- screen base in bytes -/
  sb : Int
  wrap : Bool
  size : Nat
deriving DecidableEq, Repr

def bgCntFields (w : Half) : BgCnt :=
  { prio := (bits w 0 2).setWidth 8, cb := (bitsN w 2 2 : Int) * 0x4000, bpp8 := bit w 7,
    sb := (bitsN w 8 5 : Int) * 0x800, wrap := bit w 13, size := bitsN w 14 2 }

/-- `BGxCNT` at 0x08 + 2x. -/
def State.bgCnt (s : State) (b : Nat) : Half := s.io16 (0x08 + 2 * b)

/-- `BGxHOFS`, `BGxVOFS`: nine bits each (10_state.md R113). -/
def State.bgHofs (s : State) (b : Nat) : Nat := bitsN (s.io16 (0x10 + 4 * b)) 0 9
def State.bgVofs (s : State) (b : Nat) : Nat := bitsN (s.io16 (0x12 + 4 * b)) 0 9

/-- Base of the affine block of BG `n` (10_state.md R114). -/
def affineBase (n : Nat) : Int := 0x20 + 0x10 * ((n : Int) - 2)

/-- `BGnPA` to `BGnPD` (44_affine_bg.md R602). -/
def State.bgMatrix (s : State) (n : Nat) : Matrix :=
  { pa := sext16 (s.io16 (affineBase n)), pb := sext16 (s.io16 (affineBase n + 2)),
    pc := sext16 (s.io16 (affineBase n + 4)), pd := sext16 (s.io16 (affineBase n + 6)) }

/-- `BGnX`, `BGnY`: 28-bit signed (44_affine_bg.md R602). -/
def State.bgRefX (s : State) (n : Nat) : Int := sext28 (s.io32 (affineBase n + 8))
def State.bgRefY (s : State) (n : Nat) : Int := sext28 (s.io32 (affineBase n + 12))

/-- The window registers (10_state.md R115, R116). -/
def State.win0H (s : State) : Half := s.io16 0x40
def State.win1H (s : State) : Half := s.io16 0x42
def State.win0V (s : State) : Half := s.io16 0x44
def State.win1V (s : State) : Half := s.io16 0x46
def State.winin (s : State) : Half := s.io16 0x48
def State.winout (s : State) : Half := s.io16 0x4A

/-- The blend registers (10_state.md R118, R119). -/
def State.bldcnt (s : State) : Half := s.io16 0x50
def State.bldalpha (s : State) : Half := s.io16 0x52
def State.bldy (s : State) : Half := s.io16 0x54

/-! ### DMG registers (48_dmg.md R850) -/

def State.lcdc (s : State) : Byte := s.dvram8 0x20A0
def State.scy (s : State) : Byte := s.dvram8 0x20A1
def State.scx (s : State) : Byte := s.dvram8 0x20A2
def State.bgp (s : State) : Byte := s.dvram8 0x20A3
def State.obp0 (s : State) : Byte := s.dvram8 0x20A4
def State.obp1 (s : State) : Byte := s.dvram8 0x20A5
def State.wy (s : State) : Byte := s.dvram8 0x20A6
def State.wx (s : State) : Byte := s.dvram8 0x20A7

/-- `LCDC` fields (10_state.md R126). -/
def lcdBgOn (lcdc : Byte) : Bool := bit lcdc 0
def lcdObjOn (lcdc : Byte) : Bool := bit lcdc 1
def lcdObj16 (lcdc : Byte) : Bool := bit lcdc 2
def lcdBgMap (lcdc : Byte) : Bool := bit lcdc 3
def lcdTileUnsigned (lcdc : Byte) : Bool := bit lcdc 4
def lcdWinOn (lcdc : Byte) : Bool := bit lcdc 5
def lcdWinMap (lcdc : Byte) : Bool := bit lcdc 6
def lcdOn (lcdc : Byte) : Bool := bit lcdc 7

end Sys2Proof.Machine
end

