-- ==== Sys2Proof/Machine/Views.lean ====
section
/-! DEFINITION. Meanings of the memory-view operations and of the host's port (40_memory_views.md). -/

namespace Sys2Proof.Machine

open Sys2Proof

/-- What an operation answers. -/
abbrev Answer := Host.Outcome State Fault Refusal

/-- READ_U8 (40_memory_views.md R401). -/
def execReadU8 (v : View) (off : Word) (s : State) : Answer :=
  .next (s.give (.value ((s.readU8 v off.toInt).setWidth 32)))

/-- READ_U16_LE (40_memory_views.md R402). -/
def execReadU16Le (v : View) (off : Word) (s : State) : Answer :=
  .next (s.give (.value ((s.readU16 v off.toInt).setWidth 32)))

/-- READ_U32_LE (40_memory_views.md R403). -/
def execReadU32Le (v : View) (off : Word) (s : State) : Answer :=
  .next (s.give (.value (s.readU32 v off.toInt)))

/-- HOST_WRITE (40_memory_views.md R405). -/
def execHostWrite (op : HostOp) (s : State) : Answer := .next (s.hostWrite op)

/-- HOST_READ (40_memory_views.md R406). -/
def execHostRead (r : Region) (off : Word) (n : Width) (s : State) : Answer :=
  .next (s.give (.value (s.hostRead r off.toInt n)))

/-- GET_FRAMEBUFFER (40_memory_views.md R407): a reference to the array, not a copy (70_reset_and_hazards.md R1107). -/
def execGetFramebuffer (s : State) : Answer := .next (s.give .framebuffer)

/-- What a framebuffer reference reads at word `i` in a state: the array every frame writes
(70_reset_and_hazards.md R1107). Past the array's `Config.fbWords` words, of which 40_memory_views.md R407 says nothing, the answer is
what an unlisted word reads as, 0: DESIGN CHOICE (assumption 26). -/
def Result.deref (r : Result) (s : State) (i : Nat) : Option Word :=
  match r with
  | .framebuffer => some (s.fbWord i)
  | _ => none

end Sys2Proof.Machine
end

