-- ==== Sys2Proof/Machine/Decoders.lean ====
section
/-! DEFINITION. The tile pixel decoder and the flip its callers apply (41_pixel_decoders.md). A decoder takes the byte
reader of the view it decodes. -/

namespace Sys2Proof.Machine

open Sys2Proof

/-- `dec4` (41_pixel_decoders.md R451): the low nibble for an even column, the high one for an odd. -/
def dec4 (rd : Int → Byte) (ta px py : Int) : Byte :=
  let b := rd (ta + py * 4 + px / 2)
  if px % 2 = 0 then (bits b 0 4).setWidth 8 else (bits b 4 4).setWidth 8

/-- `dec8` (41_pixel_decoders.md R453). -/
def dec8 (rd : Int → Byte) (ta px py : Int) : Byte := rd (ta + py * 8 + px)

/-- `decdmg` (41_pixel_decoders.md R454): bit `7 - px` of the high plane above that of the low plane. -/
def decDmg (rd : Int → Byte) (ta px py : Int) : Byte :=
  let lo := rd (ta + 2 * py)
  let hi := rd (ta + 2 * py + 1)
  let k := (7 - px).toNat
  (if bit hi k then 2 else 0) + (if bit lo k then 1 else 0)

/-- `decode` (41_pixel_decoders.md R455). -/
def decodePixel (rd : Int → Byte) (ta px py : Int) (bpp8 : Bool) : Byte :=
  if bpp8 then dec8 rd ta px py else dec4 rd ta px py

/-- `fetch` (41_pixel_decoders.md R456): flip in an 8x8 tile, then decode. -/
def fetchPixel (rd : Int → Byte) (ta px py : Int) (hf vf bpp8 : Bool) : Byte :=
  let p := flipPoint px py hf vf 8 8
  decodePixel rd ta p.1 p.2 bpp8

/-- The flip rows' result. -/
def flipResult (hf vf : Bool) (px py wpx hpx : Half) : Result :=
  let p := flipPoint px.toNat py.toNat hf vf wpx.toNat hpx.toNat
  .point p.1 p.2

/-- DEC4 (41_pixel_decoders.md R451). -/
def execDec4 (v : View) (ta : Word) (px py : Byte) (s : State) : Answer :=
  .next (s.give (.index (dec4 (s.readU8 v) ta.toInt px.toNat py.toNat)))

/-- DEC8 (41_pixel_decoders.md R453). -/
def execDec8 (v : View) (ta : Word) (px py : Byte) (s : State) : Answer :=
  .next (s.give (.index (dec8 (s.readU8 v) ta.toInt px.toNat py.toNat)))

/-- DECDMG (41_pixel_decoders.md R454), in the DMG view. -/
def execDecDmg (ta : Word) (px py : Byte) (s : State) : Answer :=
  .next (s.give (.index (decDmg s.dvram8 ta.toInt px.toNat py.toNat)))

/-- DECODE (41_pixel_decoders.md R455). -/
def execDecode (v : View) (ta : Word) (px py : Byte) (bpp8 : Bool) (s : State) : Answer :=
  .next (s.give (.index (decodePixel (s.readU8 v) ta.toInt px.toNat py.toNat bpp8)))

/-- FETCH (41_pixel_decoders.md R456). -/
def execFetch (v : View) (ta : Word) (px py : Byte) (hf vf bpp8 : Bool) (s : State) : Answer :=
  .next (s.give (.index (fetchPixel (s.readU8 v) ta.toInt px.toNat py.toNat hf vf bpp8)))

/-- FLIP_NONE (41_pixel_decoders.md R452). -/
def execFlipNone (px py wpx hpx : Half) (s : State) : Answer :=
  .next (s.give (flipResult false false px py wpx hpx))

/-- FLIP_H (41_pixel_decoders.md R452). -/
def execFlipH (px py wpx hpx : Half) (s : State) : Answer :=
  .next (s.give (flipResult true false px py wpx hpx))

/-- FLIP_V (41_pixel_decoders.md R452). -/
def execFlipV (px py wpx hpx : Half) (s : State) : Answer :=
  .next (s.give (flipResult false true px py wpx hpx))

/-- FLIP_HV (41_pixel_decoders.md R452). -/
def execFlipHV (px py wpx hpx : Half) (s : State) : Answer :=
  .next (s.give (flipResult true true px py wpx hpx))

end Sys2Proof.Machine
end

