-- ==== Sys2Proof/Machine/Palette.lean ====
section
/-! DEFINITION. Palette conversion (42_palette.md). -/

namespace Sys2Proof.Machine

open Sys2Proof

/-- `rgba(r, g, b)` (00_scope.md R17): opaque, red in the low byte. -/
def rgba (r g b : Byte) : Word := 0xFF#8 ++ b ++ g ++ r

/-- `rgb555_to_rgba8888` (42_palette.md R500): each 5-bit channel shifted left by 3, bit 15 ignored. -/
def rgb555 (c : Half) : Word :=
  rgba (bits c 0 5 ++ 0#3) (bits c 5 5 ++ 0#3) (bits c 10 5 ++ 0#3)

/-- The palette entry a colour index names (42_palette.md R501, R502): `bank*16 + idx` at 4 bpp, `idx` at 8 bpp. -/
def paletteIndex (bpp8 : Bool) (pal : Nat) (idx : Byte) : Int :=
  if bpp8 then (idx.toNat : Int) else (pal : Int) * 16 + idx.toNat

/-- BG colour lookup (42_palette.md R501). -/
def State.bgColour (s : State) (bpp8 : Bool) (pal : Nat) (idx : Byte) : Word :=
  rgb555 (s.bgpal (paletteIndex bpp8 pal idx))

/-- OBJ colour lookup (42_palette.md R502). -/
def State.objColour (s : State) (bpp8 : Bool) (pal : Nat) (idx : Byte) : Word :=
  rgb555 (s.objpal (paletteIndex bpp8 pal idx))

/-- The backdrop of modes 1 and 2 (42_palette.md R503). -/
def State.backdrop (s : State) : Word := rgb555 (s.bgpal 0)

/-- `DMG_SHADE[s]` (42_palette.md R504): 3 is the darkest shade, the others are OPEN in their red, green and blue
(assumption 6). -/
def dmgShadeWord (s : BitVec 2) : Word :=
  if h : s.toNat < 3 then 0xFF#8 ++ Config.dmgShadeRgb ⟨s.toNat, h⟩ else 0xFF0F380F

/-- `dmg_colour` (42_palette.md R504): the palette register's slot `idx` names the shade. -/
def dmgColour (p : Byte) (idx : Nat) : Word := dmgShadeWord (bits p (2 * idx) 2)

/-- RGB555_TO_RGBA (42_palette.md R500). -/
def execRgb555ToRgba (c : Half) (s : State) : Answer := .next (s.give (.colour (rgb555 c)))

/-- DMG_SHADE (42_palette.md R504). -/
def execDmgShade (p idx : Byte) (s : State) : Answer :=
  .next (s.give (.colour (dmgColour p idx.toNat)))

/-- RGB888_TO_RGBA (42_palette.md R505). -/
def execRgb888ToRgba (r g b : Byte) (s : State) : Answer := .next (s.give (.colour (rgba r g b)))

end Sys2Proof.Machine
end

