-- ==== Sys2Proof/Machine/TextBg.lean ====
section
/-! DEFINITION. The text background line renderer of modes 1 and 2 (43_text_bg.md). -/

namespace Sys2Proof.Machine

open Sys2Proof

/-- Map width and height in tiles (43_text_bg.md R551). -/
def textMapW (size : Nat) : Int := if size % 2 = 1 then 64 else 32
def textMapH (size : Nat) : Int := if size / 2 % 2 = 1 then 64 else 32

/-- The screen-block address of tile (col, row) (43_text_bg.md R552). -/
def screenBlockAddr (sb mapW col row : Int) : Int :=
  let sbi := col / 32 + row / 32 * (mapW / 32)
  sb + sbi * 0x800 + (row % 32 * 32 + col % 32) * 2

/-- Column `x` of line `y` of text BG `b` (43_text_bg.md R553), its control word and scrolls given. -/
def textBgColumn (s : State) (cnt : BgCnt) (hofs vofs : Nat) (x y : Int) : BgCol :=
  let mapW := textMapW cnt.size
  let mapH := textMapH cnt.size
  let sx := (x + hofs) % (mapW * 8)
  let sy := (y + vofs) % (mapH * 8)
  let e := textEntry (s.gvram16 (screenBlockAddr cnt.sb mapW (sx / 8) (sy / 8)))
  let idx := fetchPixel s.gvram8 (tileAddrBg cnt.cb e.tile cnt.bpp8) (sx % 8) (sy % 8)
    e.hflip e.vflip cnt.bpp8
  if idx = 0 then BgCol.transparent
  else { colour := s.bgColour cnt.bpp8 e.pal idx, prio := cnt.prio, tprio := 0 }

/-- `text_bg_line` (43_text_bg.md R553): column `x` of the line. -/
def textBgPixel (s : State) (b y x : Nat) : BgCol :=
  textBgColumn s (bgCntFields (s.bgCnt b)) (s.bgHofs b) (s.bgVofs b) x y

/-- TEXT_BG_LINE (43_text_bg.md R553): the line replaces the line buffers of BG `b`, which start transparent. Whether the
pipeline calls it is its caller's test (43_text_bg.md R550, 47_dispatch.md R805). -/
def execTextBgLine (b y : Byte) (s : State) : Answer :=
  .next (s.setBgLine b.toNat (bgBuffer Config.gbaW (textBgPixel s b.toNat y.toNat)))

end Sys2Proof.Machine
end

