-- ==== Sys2Proof/Machine/AffineBg.lean ====
section
/-! DEFINITION. The affine background mapper of mode 2 (44_affine_bg.md). -/

namespace Sys2Proof.Machine

open Sys2Proof

/-- Where a texture coordinate falls on an axis of `n` pixels: reduced when the axis wraps, none when it is clipped
(44_affine_bg.md R603; 49_mode0.md R905 uses it for each axis). An axis without pixels has no coordinate. -/
def wrapOrClip (wrap : Bool) (n u : Int) : Option Int :=
  if n ≤ 0 then none
  else if wrap then some (u % n)
  else if 0 ≤ u ∧ u < n then some u
  else none

/-- Side of the map in pixels (44_affine_bg.md R601). -/
def affineSize (size : Nat) : Int := 128 * 2 ^ size

/-- The pixel of texture point (sx, sy) of an affine BG (44_affine_bg.md R603): always 8 bpp, no flip, no bank. -/
def affineTexel (s : State) (cnt : BgCnt) (sx sy : Int) : BgCol :=
  let side := affineSize cnt.size / 8
  let t := s.gvram8 (cnt.sb + sy / 8 * side + sx / 8)
  let idx := dec8 s.gvram8 (tileAddrBg cnt.cb t.toNat true) (sx % 8) (sy % 8)
  if idx = 0 then BgCol.transparent
  else { colour := s.bgColour true 0 idx, prio := cnt.prio, tprio := 0 }

/-- Column `x` of line `y` of affine BG `n` (44_affine_bg.md R603), its control word and wrap bit given. -/
def affineBgColumn (s : State) (cnt : BgCnt) (wrap : Bool) (n : Nat) (y : Int) (x : Nat) : BgCol :=
  let m := s.bgMatrix n
  let tx := cursorAt (s.bgRefX n + m.pb * y) m.pa x
  let ty := cursorAt (s.bgRefY n + m.pd * y) m.pc x
  match wrapOrClip wrap (affineSize cnt.size) (tx / 256),
    wrapOrClip wrap (affineSize cnt.size) (ty / 256) with
  | some sx, some sy => affineTexel s cnt sx sy
  | _, _ => BgCol.transparent

/-- The line of affine BG `n` under the control word `w`, as its WRAP row has it. -/
def affineBgBuffer (s : State) (w : Half) (wrap : Bool) (n y : Nat) : Memory BgCol :=
  bgBuffer Config.gbaW (affineBgColumn s (bgCntFields w) wrap n y)

/-- `affine_bg_line(n, y)` (44_affine_bg.md R603) as the pipeline calls it: column `x`, the control word read from
BGnCNT. -/
def affineBgPixel (s : State) (n y x : Nat) : BgCol :=
  let cnt := bgCntFields (s.bgCnt n)
  affineBgColumn s cnt cnt.wrap n y x

/-- AFFINE_BG_LINE_WRAP (44_affine_bg.md R603): the control word has WRAP = 1. -/
def execAffineBgLineWrap (cnt : Half) (n y : Byte) (s : State) : Answer :=
  .next (s.setBgLine n.toNat (affineBgBuffer s cnt true n.toNat y.toNat))

/-- AFFINE_BG_LINE_CLIP (44_affine_bg.md R603): the control word has WRAP = 0. -/
def execAffineBgLineClip (cnt : Half) (n y : Byte) (s : State) : Answer :=
  .next (s.setBgLine n.toNat (affineBgBuffer s cnt false n.toNat y.toNat))

end Sys2Proof.Machine
end

