-- ==== Sys2Proof/Machine/Sprites.lean ====
section
/-! DEFINITION. The sprite evaluator of modes 1 and 2 (45_sprites.md), and the parts of it mode 0 reuses. -/

namespace Sys2Proof.Machine

open Sys2Proof

/-! ### One candidate at one column -/

/-- A colour candidate writes a column that is empty or holds no smaller priority (45_sprites.md R659). -/
def SprCol.offer (c : SprCol) (prio : Byte) (colour : Word) (semi : Bool) : SprCol :=
  if c.prio = 0xFF ∨ prio ≤ c.prio then { c with colour := colour, prio := prio, semi := semi } else c

/-- A non-transparent texel of an object-window sprite (45_sprites.md R660). -/
def SprCol.markWindow (c : SprCol) : SprCol := { c with objwin := true }

/-- A non-transparent texel of a sprite of mode `m` (45_sprites.md R660, R661). -/
def SprCol.texel (c : SprCol) (m : ObjMode) (prio : Byte) (colour : Word) : SprCol :=
  match m with
  | .normal => c.offer prio colour false
  | .semi => c.offer prio colour true
  | .objwin => c.markWindow
  | .hidden => c

/-! ### One sprite at one column -/

/-- The affine texel of box column `cx`, box row `iy` (45_sprites.md R656): none outside the sprite's rectangle. -/
def affineSpriteTexel (m : Matrix) (w h bw bh cx iy : Int) : Option (Int × Int) :=
  let irx := cx - bw / 2
  let iry := iy - bh / 2
  let tx := (m.pa * irx + m.pb * iry) / 256 + w / 2
  let ty := (m.pc * irx + m.pd * iry) / 256 + h / 2
  if 0 ≤ tx ∧ tx < w ∧ 0 ≤ ty ∧ ty < h then some (tx, ty) else none

/-- The bounding box of a sprite of size `w` x `h`: doubled for a double-size affine sprite (45_sprites.md R655). -/
def boxScale (k : SpriteKind) : Int :=
  match k with
  | .affineDbl => 2
  | _ => 1

/-- The texel of a sprite's box column `cx` and row `iy` (45_sprites.md R656, R657). -/
def spriteTexel (s : State) (k : SpriteKind) (a : ObjAttr) (w h cx iy : Int) : Option (Int × Int) :=
  match k with
  | .normal => some (flipPoint cx iy a.hflip a.vflip w h)
  | .affine | .affineDbl =>
    affineSpriteTexel (s.spriteMatrix a.group) w h (w * boxScale k) (h * boxScale k) cx iy
  | .hidden => none

/-- The tile number of a texel (45_sprites.md R658). -/
def spriteTile (obj1d : Bool) (bpp8 : Bool) (tile0 : Nat) (w tx ty : Int) : Int :=
  let tc := tx / 8
  let tr := ty / 8
  let k : Int := if bpp8 then 2 else 1
  (tile0 : Int) + (if obj1d then (tr * (w / 8) + tc) * k else tr * 32 + tc * k)

/-- The colour index of a texel (45_sprites.md R661). -/
def spriteIndex (s : State) (a : ObjAttr) (w tx ty : Int) : Byte :=
  decodePixel s.gvram8 (tileAddrObj (spriteTile s.obj1d a.bpp8 a.tile w tx ty)) (tx % 8) (ty % 8) a.bpp8

/-- What one sprite does to column `sx` of line `y` (the loop body of 45_sprites.md R661): nothing when the sprite is
hidden (R653), has no size, or does not cover the pixel. A raw X of 240 or more folds to `X - 512` (30_encoding.md R315), and
the sprite is drawn where its box reaches column 0 or later, as the loop and program P3 of 95_test_vectors.md have it; the
sentence among R661's corner cases that calls every such sprite invisible contradicts them, and no file rules on it: DESIGN
CHOICE (assumption 30). -/
def spriteColumn (s : State) (k : SpriteKind) (a : ObjAttr) (y sx : Int) (c : SprCol) : SprCol :=
  match objSize a.shape a.size with
  | none => c
  | some (w, h) =>
    let xs := foldX a.xRaw
    let ys := foldY a.yRaw
    if ys ≤ y ∧ y < ys + h * boxScale k ∧ xs ≤ sx ∧ sx < xs + w * boxScale k then
      match spriteTexel s k a w h (sx - xs) (y - ys) with
      | none => c
      | some (tx, ty) =>
        let idx := spriteIndex s a w tx ty
        if idx = 0 then c
        else c.texel a.omode a.prio (s.objColour a.bpp8 a.pal idx)
    else c

/-- The columns of line `y` after one sprite has been drawn over them. -/
def drawSprite (s : State) (k : SpriteKind) (a : ObjAttr) (y : Nat) (lb : LineBuffers) : Memory SprCol :=
  sprBuffer Config.gbaW fun sx => spriteColumn s k a y sx (lb.sprCol sx)

/-- OAM entry `i` over a column (45_sprites.md R653). -/
def State.oamSprite (s : State) (i : Nat) (y sx : Int) (c : SprCol) : SprCol :=
  let a0 := s.oam16 (4 * i)
  spriteColumn s (spriteKind a0) (objAttr a0 (s.oam16 (4 * i + 1)) (s.oam16 (4 * i + 2))) y sx c

/-- `sprite_line(y)`, column `sx` (45_sprites.md R661): entries 127 down to 0 over an empty column (R651, R652). The loops
over sprites and over columns are exchanged, since a sprite touches a column once (assumption 21). -/
def spritePixel (s : State) (y sx : Nat) : SprCol :=
  if s.objOn then
    (List.range Config.gbaSprites).reverse.foldl (fun c i => s.oamSprite i y sx c) SprCol.empty
  else SprCol.empty

/-- SPRITE_LINE (45_sprites.md R661). -/
def execSpriteLine (y : Byte) (s : State) : Answer :=
  .next (s.setSprLine (sprBuffer Config.gbaW (spritePixel s y.toNat)))

/-- SPRITE_NORMAL (45_sprites.md R657, R661): this sprite drawn over line `y`. -/
def execSpriteNormal (a0 a1 a2 : Half) (y : Byte) (s : State) : Answer :=
  .next (s.setSprLine (drawSprite s .normal (objAttr a0 a1 a2) y.toNat s.line))

/-- SPRITE_AFFINE (45_sprites.md R656, R661). -/
def execSpriteAffine (a0 a1 a2 : Half) (y : Byte) (s : State) : Answer :=
  .next (s.setSprLine (drawSprite s .affine (objAttr a0 a1 a2) y.toNat s.line))

/-- SPRITE_AFFINE_DBL (45_sprites.md R655, R656, R661). -/
def execSpriteAffineDbl (a0 a1 a2 : Half) (y : Byte) (s : State) : Answer :=
  .next (s.setSprLine (drawSprite s .affineDbl (objAttr a0 a1 a2) y.toNat s.line))

/-- SPRITE_HIDDEN (45_sprites.md R653): draws nothing, sets no object-window bit. -/
def execSpriteHidden (_a0 _a1 _a2 : Half) (_y : Byte) (s : State) : Answer := .next s

/-- The column `sx` of the sprite line after `f`. -/
def State.updateSprCol (s : State) (sx : Nat) (f : SprCol → SprCol) : State :=
  s.setSprLine (Memory.write SprCol.empty s.line.spr sx (f (s.line.sprCol sx)))

/-- OMODE_NORMAL (45_sprites.md R659, R660): the candidate's palette entry `c` offered to column `sx`. -/
def execOmodeNormal (sx prio : Byte) (c : Half) (s : State) : Answer :=
  .next (s.updateSprCol sx.toNat fun col => col.texel .normal prio (rgb555 c))

/-- OMODE_SEMI (45_sprites.md R659, R660). -/
def execOmodeSemi (sx prio : Byte) (c : Half) (s : State) : Answer :=
  .next (s.updateSprCol sx.toNat fun col => col.texel .semi prio (rgb555 c))

/-- OMODE_OBJWIN (45_sprites.md R660). -/
def execOmodeObjwin (sx : Byte) (s : State) : Answer :=
  .next (s.updateSprCol sx.toNat SprCol.markWindow)

/-- OMODE_HIDDEN (45_sprites.md R653): not drawn. -/
def execOmodeHidden (_sx : Byte) (s : State) : Answer := .next s

/-! ### Sizes -/

/-- The bounds of a sprite (45_sprites.md R655): its size, its box, its sign-folded position. -/
def objBounds (shape size : Nat) (affine dbl : Bool) (yRaw : Byte) (xRaw : Half) : Result :=
  match objSize shape size with
  | none => .noSize
  | some (w, h) =>
    let k : Int := if affine && dbl then 2 else 1
    .bounds w h (w * k) (h * k) (foldX xRaw.toNat) (foldY yRaw.toNat)

def execObjSizeSquare8x8 (a d : Bool) (y : Byte) (x : Half) (s : State) : Answer :=
  .next (s.give (objBounds 0 0 a d y x))
def execObjSizeSquare16x16 (a d : Bool) (y : Byte) (x : Half) (s : State) : Answer :=
  .next (s.give (objBounds 0 1 a d y x))
def execObjSizeSquare32x32 (a d : Bool) (y : Byte) (x : Half) (s : State) : Answer :=
  .next (s.give (objBounds 0 2 a d y x))
def execObjSizeSquare64x64 (a d : Bool) (y : Byte) (x : Half) (s : State) : Answer :=
  .next (s.give (objBounds 0 3 a d y x))
def execObjSizeWide16x8 (a d : Bool) (y : Byte) (x : Half) (s : State) : Answer :=
  .next (s.give (objBounds 1 0 a d y x))
def execObjSizeWide32x8 (a d : Bool) (y : Byte) (x : Half) (s : State) : Answer :=
  .next (s.give (objBounds 1 1 a d y x))
def execObjSizeWide32x16 (a d : Bool) (y : Byte) (x : Half) (s : State) : Answer :=
  .next (s.give (objBounds 1 2 a d y x))
def execObjSizeWide64x32 (a d : Bool) (y : Byte) (x : Half) (s : State) : Answer :=
  .next (s.give (objBounds 1 3 a d y x))
def execObjSizeTall8x16 (a d : Bool) (y : Byte) (x : Half) (s : State) : Answer :=
  .next (s.give (objBounds 2 0 a d y x))
def execObjSizeTall8x32 (a d : Bool) (y : Byte) (x : Half) (s : State) : Answer :=
  .next (s.give (objBounds 2 1 a d y x))
def execObjSizeTall16x32 (a d : Bool) (y : Byte) (x : Half) (s : State) : Answer :=
  .next (s.give (objBounds 2 2 a d y x))
def execObjSizeTall32x64 (a d : Bool) (y : Byte) (x : Half) (s : State) : Answer :=
  .next (s.give (objBounds 2 3 a d y x))

/-- OBJ_SIZE_RESERVED (45_sprites.md R653): shape 3 has no size, the sprite is not drawn. -/
def execObjSizeReserved (_size : Byte) (s : State) : Answer := .next (s.give .noSize)

end Sys2Proof.Machine
end

