-- ==== Sys2Proof/Machine/Compositor.lean ====
section
/-! DEFINITION. The scanline composer (46_compositor.md): windows, contributors, colour math. Mode 0 reuses all of it but the
order of the contributors (49_mode0.md R914). -/

namespace Sys2Proof.Machine

open Sys2Proof

/-! ### Layers and windows -/

/-- The number of a layer (46_compositor.md R720). -/
def layerNum : Layer → Nat
  | .bg0 => 0
  | .bg1 => 1
  | .bg2 => 2
  | .bg3 => 3
  | .obj => 4
  | .bd => 5

/-- The layer of background `b`. -/
def bgLayer : Nat → Layer
  | 0 => .bg0
  | 1 => .bg1
  | 2 => .bg2
  | _ => .bg3

/-- Whether a 6-bit set holds a layer (46_compositor.md R720). -/
def inSet (set : BitVec 6) (l : Layer) : Bool := bit set (layerNum l)

/-- `in_win` (46_compositor.md R722) for a rectangle on a screen `w` x `hs`: an inverted or too large one is empty. -/
def inWin (x1 x2 y1 y2 x y w hs : Int) : Bool :=
  if x1 > x2 ∨ y1 > y2 ∨ x2 > w ∨ y2 > hs then false
  else decide (x1 ≤ x ∧ x < x2 ∧ y1 ≤ y ∧ y < y2)

/-- `in_win` of a pair of window registers (46_compositor.md R722). -/
def inWinRegs (h v : Half) (x y w hs : Int) : Bool :=
  inWin (bitsN h 8 8) (bitsN h 0 8) (bitsN v 8 8) (bitsN v 0 8) x y w hs

/-- The three window switches, where the pixel is, and the four enable sets (46_compositor.md R723). -/
structure WindowCase where
  win0On : Bool
  win1On : Bool
  objwinOn : Bool
  in0 : Bool
  in1 : Bool
  inObj : Bool
  set0 : BitVec 6
  set1 : BitVec 6
  setObj : BitVec 6
  setOut : BitVec 6

/-- The window enable set (46_compositor.md R723): window 0 before window 1 before the object window before outside. -/
def WindowCase.enables (c : WindowCase) : BitVec 6 :=
  if !c.win0On && !c.win1On && !c.objwinOn then 0b111111
  else if c.win0On && c.in0 then c.set0
  else if c.win1On && c.in1 then c.set1
  else if c.objwinOn && c.inObj then c.setObj
  else c.setOut

/-- The enable set of column `x`, line `y` in modes 1 and 2 (46_compositor.md R723); `objwin` is the column's object-window
bit. -/
def gbaEnables (s : State) (objwin : Bool) (x y : Nat) : BitVec 6 :=
  WindowCase.enables
    { win0On := s.win0On, win1On := s.win1On, objwinOn := s.objwinOn,
      in0 := inWinRegs s.win0H s.win0V x y Config.gbaW Config.gbaH,
      in1 := inWinRegs s.win1H s.win1V x y Config.gbaW Config.gbaH,
      inObj := objwin,
      set0 := bits s.winin 0 6, set1 := bits s.winin 8 6,
      setObj := bits s.winout 8 6, setOut := bits s.winout 0 6 }

/-! ### Contributors -/

/-- The sprite of a column as a contributor. -/
def SprCol.contributor (c : SprCol) : Contributor := ⟨.obj, c.colour, c.semi⟩

/-- Background `b`'s column as a contributor. -/
def BgCol.contributor (c : BgCol) (b : Nat) : Contributor := ⟨bgLayer b, c.colour, false⟩

/-- The contributors of priority class `p` (46_compositor.md R725): the sprite, then the backgrounds by index. -/
def classContributors (en : BitVec 6) (spr : SprCol) (bg : Nat → BgCol) (p : Byte) : List Contributor :=
  (if inSet en .obj && decide (spr.colour ≠ 0) && decide (spr.prio = p) then [spr.contributor] else [])
    ++ ((List.range 4).filter fun b =>
        inSet en (bgLayer b) && decide ((bg b).colour ≠ 0) && decide ((bg b).prio = p)).map
      fun b => (bg b).contributor b

/-- The contributor list of a column in modes 1 and 2 (46_compositor.md R725): classes 0 to 3, then the backdrop. -/
def gbaContributors (en : BitVec 6) (spr : SprCol) (bg : Nat → BgCol) (backdrop : Word) :
    List Contributor :=
  ([0, 1, 2, 3] : List Byte).flatMap (classContributors en spr bg) ++ [⟨.bd, backdrop, false⟩]

/-! ### Colour math -/

/-- What colour math reads: the target sets, the effect, the clamped coefficients (46_compositor.md R727). -/
structure Blend where
  first : BitVec 6
  second : BitVec 6
  effect : BitVec 2
  eva : Nat
  evb : Nat
  evy : Nat
deriving DecidableEq, Repr

/-- The blend of modes 1 and 2 under a `BLDCNT` word (46_compositor.md R727). -/
def gbaBlend (s : State) (bldcnt : Half) : Blend :=
  { first := bits bldcnt 0 6, second := bits bldcnt 8 6, effect := bits bldcnt 6 2,
    eva := min 16 (bitsN s.bldalpha 0 5), evb := min 16 (bitsN s.bldalpha 8 5),
    evy := min 16 (bitsN s.bldy 0 5) }

/-- The red, green and blue channels of a pixel (00_scope.md R17). -/
def chanR (w : Word) : Nat := bitsN w 0 8
def chanG (w : Word) : Nat := bitsN w 8 8
def chanB (w : Word) : Nat := bitsN w 16 8

/-- A pixel with each channel computed. -/
def mapChannels (f : Nat → Nat) (t : Word) : Word :=
  rgba (BitVec.ofNat 8 (f (chanR t))) (BitVec.ofNat 8 (f (chanG t))) (BitVec.ofNat 8 (f (chanB t)))

/-- One channel of ALPHA, BRIGHTEN, DARKEN (46_compositor.md R728, R729, R730). -/
def alphaChannel (eva evb tc uc : Nat) : Nat := min 255 ((tc * eva + uc * evb) / 16)
def brightenChannel (evy tc : Nat) : Nat := tc + (255 - tc) * evy / 16
def darkenChannel (evy tc : Nat) : Nat := tc - tc * evy / 16

/-- `alpha(t, u)` (46_compositor.md R728). -/
def alpha (bl : Blend) (t u : Word) : Word :=
  rgba (BitVec.ofNat 8 (alphaChannel bl.eva bl.evb (chanR t) (chanR u)))
    (BitVec.ofNat 8 (alphaChannel bl.eva bl.evb (chanG t) (chanG u)))
    (BitVec.ofNat 8 (alphaChannel bl.eva bl.evb (chanB t) (chanB u)))

/-- `brighten(t)` (46_compositor.md R729). -/
def brighten (bl : Blend) (t : Word) : Word := mapChannels (brightenChannel bl.evy) t

/-- `darken(t)` (46_compositor.md R730). -/
def darken (bl : Blend) (t : Word) : Word := mapChannels (darkenChannel bl.evy) t

/-- `0xFF000000 | out[23:0]` (46_compositor.md R731). -/
def opaquePixel (w : Word) : Word := 0xFF#8 ++ bits w 0 24

/-- The lower contributor when it is a second target (46_compositor.md R731). -/
def secondTarget (bl : Blend) (bot : Option Contributor) : Option Contributor :=
  bot.filter fun u => inSet bl.second u.layer

/-! The four arms of the switch of 46_compositor.md R731, the rows EFFECT_NONE to EFFECT_DARKEN. -/

def effectNoneOut (top : Contributor) : Word := top.colour

def effectAlphaOut (bl : Blend) (top : Contributor) (bot : Option Contributor) : Word :=
  match secondTarget bl bot with
  | some u => if inSet bl.first top.layer then alpha bl top.colour u.colour else top.colour
  | none => top.colour

def effectBrightenOut (bl : Blend) (top : Contributor) : Word :=
  if inSet bl.first top.layer then brighten bl top.colour else top.colour

def effectDarkenOut (bl : Blend) (top : Contributor) : Word :=
  if inSet bl.first top.layer then darken bl top.colour else top.colour

/-- The switch on `EFFECT` (46_compositor.md R731). -/
def effectOut (bl : Blend) (top : Contributor) (bot : Option Contributor) : Word :=
  match bl.effect.toNat with
  | 0 => effectNoneOut top
  | 1 => effectAlphaOut bl top bot
  | 2 => effectBrightenOut bl top
  | _ => effectDarkenOut bl top

/-- A semi-transparent sprite on top forces alpha when the lower contributor is a second target, else the switch decides
(46_compositor.md R731). -/
def blendOut (bl : Blend) (top : Contributor) (bot : Option Contributor) : Word :=
  match secondTarget bl bot with
  | some u =>
    if top.layer = .obj ∧ top.semi = true then alpha bl top.colour u.colour else effectOut bl top bot
  | none => effectOut bl top bot

/-- `colour_math` (46_compositor.md R731). -/
def colourMath (bl : Blend) (top : Contributor) (bot : Option Contributor) (effEn : Bool) : Word :=
  opaquePixel (if effEn then blendOut bl top bot else top.colour)

/-- The pixel of a contributor list (46_compositor.md R726, R731, R732): its two front entries, `en[5]` enabling the
effect. -/
def composeList (bl : Blend) (en : BitVec 6) (cs : List Contributor) : Word :=
  match cs with
  | [] => 0xFF000000  -- no list is empty: the backdrop is always in it (46_compositor.md R725)
  | top :: rest => colourMath bl top rest.head? (bit en 5)

/-- `compose_line(y)`, column `x` (46_compositor.md R732), from the line buffers given. -/
def composePixel (s : State) (lb : LineBuffers) (y x : Nat) : Word :=
  let spr := lb.sprCol x
  let en := gbaEnables s spr.objwin x y
  composeList (gbaBlend s s.bldcnt) en (gbaContributors en spr (fun b => lb.bgCol b x) s.backdrop)

/-- The row that `compose_line(y)` writes (46_compositor.md R732). -/
def composeRow (s : State) (lb : LineBuffers) (y : Nat) : List Word :=
  (List.range Config.gbaW).map (composePixel s lb y)

/-! ### Meanings -/

/-- WINDOW_IN (46_compositor.md R722). -/
def execWindowIn (h v x y w hs : Half) (s : State) : Answer :=
  .next (s.give (.inside (inWinRegs h v x.toNat y.toNat w.toNat hs.toNat)))

/-- WINDOW_ENABLES (46_compositor.md R723), with the object-window mask of the sprite line. -/
def execWindowEnables (x y : Byte) (s : State) : Answer :=
  .next (s.give (.enables (gbaEnables s (s.line.sprCol x.toNat).objwin x.toNat y.toNat)))

/-! The EFFECT rows and SEMI_FORCED_ALPHA are R731 with `eff_en` at 1: the spec gives these rows no operand list, and none of them
tests the window effect bit of a column, which COMPOSE_LINE does (`en[5]`). DESIGN CHOICE (assumption 4). -/

/-- EFFECT_NONE (46_compositor.md R731). -/
def execEffectNone (_bldcnt : Half) (top : Contributor) (_bot : Option Contributor) (s : State) : Answer :=
  .next (s.give (.colour (opaquePixel (effectNoneOut top))))

/-- EFFECT_ALPHA (46_compositor.md R728, R731). -/
def execEffectAlpha (bldcnt : Half) (top : Contributor) (bot : Option Contributor) (s : State) : Answer :=
  .next (s.give (.colour (opaquePixel (effectAlphaOut (gbaBlend s bldcnt) top bot))))

/-- EFFECT_BRIGHTEN (46_compositor.md R729, R731). -/
def execEffectBrighten (bldcnt : Half) (top : Contributor) (_bot : Option Contributor) (s : State) : Answer :=
  .next (s.give (.colour (opaquePixel (effectBrightenOut (gbaBlend s bldcnt) top))))

/-- EFFECT_DARKEN (46_compositor.md R730, R731). -/
def execEffectDarken (bldcnt : Half) (top : Contributor) (_bot : Option Contributor) (s : State) : Answer :=
  .next (s.give (.colour (opaquePixel (effectDarkenOut (gbaBlend s bldcnt) top))))

/-- SEMI_FORCED_ALPHA (46_compositor.md R731): colour math of a semi-transparent sprite of colour `t` over `bot`, under the
state's BLDCNT. The row has no operand for the window effect bit: it runs with `eff_en` = 1. DESIGN CHOICE (assumption 4). -/
def execSemiForcedAlpha (t : Word) (bot : Contributor) (s : State) : Answer :=
  .next (s.give (.colour (colourMath (gbaBlend s s.bldcnt) ⟨.obj, t, true⟩ (some bot) true)))

/-- COMPOSE_LINE (46_compositor.md R732, R740): row `y` of the framebuffer from the line buffers. -/
def execComposeLine (y : Byte) (s : State) : Answer :=
  .next { s with fb := writeRow s.fb Config.gbaW y.toNat (composeRow s s.line y.toNat) }

end Sys2Proof.Machine
end

