-- ==== Sys2Proof/Machine/Dmg.lean ====
section
/-! DEFINITION. The DMG pipeline of mode 7 (48_dmg.md): background and window, sprites, the pixel. -/

namespace Sys2Proof.Machine

open Sys2Proof

/-- The background and window colour index of pixel (x, y) (48_dmg.md R854). -/
def dmgBgIndex (s : State) (x y : Int) : Byte :=
  if lcdBgOn s.lcdc then
    if lcdWinOn s.lcdc = true ∧ (s.wy.toNat : Int) ≤ y ∧ (s.wx.toNat : Int) ≤ x + 7 then
      mapPixel (if lcdWinMap s.lcdc then 0x1C00 else 0x1800) (x + 7 - s.wx.toNat) (y - s.wy.toNat)
    else
      mapPixel (if lcdBgMap s.lcdc then 0x1C00 else 0x1800) ((x + s.scx.toNat) % 256)
        ((y + s.scy.toNat) % 256)
  else 0
where
  /-- The pixel (mx, my) of the tile map at `map` (48_dmg.md R853, R854). -/
  mapPixel (map mx my : Int) : Byte :=
    let t := s.dvram8 (map + my / 8 * 32 + mx / 8)
    decDmg s.dvram8 (tileAddrDmg t (lcdTileUnsigned s.lcdc)) (mx % 8) (my % 8)

/-- A DMG sprite entry (30_encoding.md R311, 48_dmg.md R855). -/
structure DmgSprite where
  sy : Int
  sxs : Int
  tile : Byte
  flags : Byte
deriving DecidableEq, Repr

def dmgSpriteOf (b0 b1 b2 b3 : Byte) : DmgSprite :=
  { sy := (b0.toNat : Int) - 16, sxs := (b1.toNat : Int) - 8, tile := b2, flags := b3 }

/-- Entry `i` of the sprite table (48_dmg.md R855). -/
def State.dmgSprite (s : State) (i : Nat) : DmgSprite :=
  dmgSpriteOf (s.dvram8 (0x2000 + 4 * i)) (s.dvram8 (0x2001 + 4 * i)) (s.dvram8 (0x2002 + 4 * i))
    (s.dvram8 (0x2003 + 4 * i))

/-- `hgt` (48_dmg.md R855). -/
def dmgHeight (obj16 : Bool) : Int := if obj16 then 16 else 8

/-- A sprite covers line `y` (48_dmg.md R856). -/
def DmgSprite.covers (e : DmgSprite) (hgt y : Int) : Bool := decide (e.sy ≤ y ∧ y < e.sy + hgt)

/-- Put `i` behind the entries whose key is not greater. -/
def insertByKey (key : Nat → Int) (i : Nat) : List Nat → List Nat
  | [] => [i]
  | j :: js => if key j ≤ key i then j :: insertByKey key i js else i :: j :: js

/-- The entries in ascending order of the key, entries of equal key in the order they came. -/
def sortByKey (key : Nat → Int) (l : List Nat) : List Nat :=
  l.foldl (fun acc i => insertByKey key i acc) []

/-- `select_sprites(y)` (48_dmg.md R856). -/
def selectSprites (s : State) (y : Nat) : List Nat :=
  if lcdObjOn s.lcdc then
    sortByKey (fun i => (s.dmgSprite i).sxs)
      (((List.range Config.dmgSprites).filter fun i =>
        (s.dmgSprite i).covers (dmgHeight (lcdObj16 s.lcdc)) y).take Config.dmgSpritesPerLine)
  else []

/-- The colour index of a sprite at pixel (x, y), none where it does not cover the pixel (48_dmg.md R857). -/
def dmgSpriteIndex (s : State) (hgt : Int) (e : DmgSprite) (x y : Int) : Option Byte :=
  if e.covers hgt y = true ∧ e.sxs ≤ x ∧ x < e.sxs + 8 then
    let row := if bit e.flags 6 then hgt - 1 - (y - e.sy) else y - e.sy
    let col := if bit e.flags 5 then 7 - (x - e.sxs) else x - e.sxs
    let tile : Int := if hgt = 16 then ((e.tile &&& 0xFE).toNat : Int) + row / 8 else e.tile.toNat
    some (decDmg s.dvram8 (tile * 16) col (row % 8))
  else none

/-- The first sprite of the list with a non-transparent texel at (x, y), and its index there (48_dmg.md R858). -/
def dmgFirstSprite (s : State) (sel : List Nat) (x y : Int) : Option (DmgSprite × Byte) :=
  sel.findSome? fun i =>
    let e := s.dmgSprite i
    match dmgSpriteIndex s (dmgHeight (lcdObj16 s.lcdc)) e x y with
    | some si => if si = 0 then none else some (e, si)
    | none => none

/-- `dmg_pixel(x, y, sel)` (48_dmg.md R859). -/
def dmgPixel (s : State) (x y : Nat) (sel : List Nat) : Word :=
  let bi := dmgBgIndex s x y
  match dmgFirstSprite s sel x y with
  | some (e, si) =>
    if bit e.flags 7 = true ∧ bi ≠ 0 then dmgColour s.bgp bi.toNat
    else dmgColour (if bit e.flags 4 then s.obp1 else s.obp0) si.toNat
  | none => dmgColour s.bgp bi.toNat

/-- Row `y` of a frame of mode 7 (48_dmg.md R851). -/
def dmgRow (s : State) (y : Nat) : List Word :=
  let sel := selectSprites s y
  (List.range Config.dmgW).map fun x => dmgPixel s x y sel

/-- The height of a row of the opcode table and the fields of sprite `i` (48_dmg.md R855). -/
def dmgObjResult (s : State) (obj16 : Bool) (i : Nat) : Result :=
  let e := s.dmgSprite i
  .dmgObj (dmgHeight obj16) e.sy e.sxs e.tile e.flags

/-- DMG_TILE_UNSIGNED (48_dmg.md R853): the tile's address in the DMG view. -/
def execDmgTileUnsigned (_lcdc t : Byte) (s : State) : Answer :=
  .next (s.give (.address (tileAddrDmg t true)))

/-- DMG_TILE_SIGNED (48_dmg.md R853). -/
def execDmgTileSigned (_lcdc t : Byte) (s : State) : Answer :=
  .next (s.give (.address (tileAddrDmg t false)))

/-- DMG_OBJ_8 (48_dmg.md R855). -/
def execDmgObj8 (_lcdc i : Byte) (s : State) : Answer := .next (s.give (dmgObjResult s false i.toNat))

/-- DMG_OBJ_16 (48_dmg.md R855). -/
def execDmgObj16 (_lcdc i : Byte) (s : State) : Answer := .next (s.give (dmgObjResult s true i.toNat))

/-- DMG_SPRITE_ENTRY (48_dmg.md R857): the entry's colour index at (x, y), its height from LCDC. -/
def execDmgSpriteEntry (b0 b1 b2 b3 x y : Byte) (s : State) : Answer :=
  .next (s.give (.indexIfCovered
    (dmgSpriteIndex s (dmgHeight (lcdObj16 s.lcdc)) (dmgSpriteOf b0 b1 b2 b3) x.toNat y.toNat)))

/-- DMG_PIXEL (48_dmg.md R859). -/
def execDmgPixel (x y : Byte) (sel : List Byte) (s : State) : Answer :=
  .next (s.give (.colour (dmgPixel s x.toNat y.toNat (sel.map BitVec.toNat))))

end Sys2Proof.Machine
end

