-- ==== Sys2Proof/Machine/Mode0.lean ====
section
/-! DEFINITION. The superset pipeline of mode 0 (49_mode0.md), on the typed view of the mode-0 record (10_state.md R130). -/

namespace Sys2Proof.Machine

open Sys2Proof

/-! ### Backgrounds -/

/-- Palette selection (49_mode0.md R909): none for a bank past the sixth. -/
def m0Colour (M : M0Record) (bpp8 : Bool) (pal : Nat) (idx : Byte) : Option Word :=
  let bank := pal / 16
  if bank < Config.m0PalBanks then
    let e := M.pal bank (if bpp8 then idx.toNat else pal % 16 * 16 + idx.toNat)
    some (rgba e.1 e.2.1 e.2.2)
  else none

/-- The pixel of texture point (u, v) of BG `b` (49_mode0.md R907, R908, R909, R910). -/
def m0Texel (M : M0Record) (b : Nat) (u v : Int) : BgCol :=
  let bg := M.bg b
  let k := (v / 8 * bg.widthTiles + u / 8).toNat
  if k < M.tilemapEntries then
    let e := supersetEntry (M.map b k)
    let idx := fetchPixel M.readTile (tileAddrM0 e.tile bg.bpp8) (u % 8) (v % 8) e.hflip e.vflip bg.bpp8
    if idx = 0 then BgCol.transparent
    else
      match m0Colour M bg.bpp8 e.pal idx with
      | none => BgCol.transparent
      | some c => { colour := c, prio := bg.layerPriority, tprio := e.tprio }
  else BgCol.transparent

/-- Texture coordinates of column `x`, text path (49_mode0.md R904, R905), before wrap and clip. -/
def m0TextUV (M : M0Record) (b y x : Nat) : Int × Int :=
  let bg := M.bg b
  let ls := M.lineScroll b y
  ((x : Int) + (bg.scrollX + ls.1), (y : Int) + (bg.scrollY + ls.2))

/-- Texture coordinates of column `x`, affine path (49_mode0.md R906), before wrap and clip. -/
def m0AffineUV (M : M0Record) (b y x : Nat) : Int × Int :=
  let bg := M.bg b
  let la := M.lineAffine b y
  let tx := if la.valid then la.tx else bg.ox + bg.matrix.pb * y
  let ty := if la.valid then la.ty else bg.oy + bg.matrix.pd * y
  (cursorAt tx bg.matrix.pa x / 256, cursorAt ty bg.matrix.pc x / 256)

/-- Column `x` of a line of BG `b`, given its texture coordinates (49_mode0.md R905, R910). -/
def m0Column (M : M0Record) (b : Nat) (uv : Int × Int) : BgCol :=
  let bg := M.bg b
  match wrapOrClip bg.wrapX (bg.widthTiles * 8) uv.1, wrapOrClip bg.wrapY (bg.heightTiles * 8) uv.2 with
  | some u, some v => m0Texel M b u v
  | _, _ => BgCol.transparent

/-- `m0_bg_line(b, y)`, column `x`, on the text and on the affine path (49_mode0.md R910). -/
def m0TextPixel (M : M0Record) (b y x : Nat) : BgCol := m0Column M b (m0TextUV M b y x)
def m0AffinePixel (M : M0Record) (b y x : Nat) : BgCol := m0Column M b (m0AffineUV M b y x)

/-- The line of BG `b` as the frame draws it: nothing when the BG is disabled, else the path its `affine` flag selects
(49_mode0.md R902). -/
def m0BgPixel (M : M0Record) (b y x : Nat) : BgCol :=
  if (M.bg b).enabled then
    if (M.bg b).affine then m0AffinePixel M b y x else m0TextPixel M b y x
  else BgCol.transparent

/-! ### Sprites -/

/-- The priority byte of a sprite: a value of 0xFF or more is treated as empty-equal (49_mode0.md R911). -/
def m0Priority (p : Nat) : Byte := BitVec.ofNat 8 (min p 255)

/-- The texel of box column `cx`, box row `iy` of a sprite (49_mode0.md R911). -/
def m0SpriteTexel (M : M0Record) (r : M0Sprite) (w h k cx iy : Int) : Option (Int × Int) :=
  if r.affine then affineSpriteTexel (M.saff r.affineIndex) w h (w * k) (h * k) cx iy
  else some (flipPoint cx iy r.hflip r.vflip w h)

/-- What one sprite record does to column `sx` of line `y` (49_mode0.md R911). -/
def m0SpriteColumn (M : M0Record) (r : M0Sprite) (y sx : Int) (c : SprCol) : SprCol :=
  let w : Int := r.w8 * 8
  let h : Int := r.h8 * 8
  let k : Int := if r.affine && r.doubleSize then 2 else 1
  if r.enabled = true ∧ 0 < w ∧ 0 < h ∧ ¬ (r.affine = true ∧ Config.m0AffineMats ≤ r.affineIndex)
      ∧ r.y ≤ y ∧ y < r.y + h * k ∧ r.x ≤ sx ∧ sx < r.x + w * k then
    match m0SpriteTexel M r w h k (sx - r.x) (y - r.y) with
    | none => c
    | some (tx, ty) =>
      let tn : Int := r.tile + (ty / 8 * r.w8 + tx / 8) * (if r.bpp8 then 2 else 1)
      let idx := decodePixel M.readTile (tn * 32) (tx % 8) (ty % 8) r.bpp8
      if idx = 0 then c
      else if r.objwin then c.markWindow
      else
        match m0Colour M r.bpp8 r.palette idx with
        | none => c
        | some w => c.offer (m0Priority r.priority) w r.semi
  else c

/-- `m0_sprite_line(y)`, column `sx` (49_mode0.md R911): records 511 down to 0 over an empty column. -/
def m0SpritePixel (M : M0Record) (y sx : Nat) : SprCol :=
  if M.g.objOn then
    (List.range Config.m0Sprites).reverse.foldl (fun c i => m0SpriteColumn M (M.spr i) y sx c) SprCol.empty
  else SprCol.empty

/-! ### Composition -/

/-- The enable set of column `x`, line `y`, on a screen `w` x 360 (49_mode0.md R914). -/
def m0Enables (M : M0Record) (w : Nat) (objwin : Bool) (x y : Nat) : BitVec 6 :=
  WindowCase.enables
    { win0On := M.g.win0On, win1On := M.g.win1On, objwinOn := M.g.objwinOn,
      in0 := inWin M.g.win0.x1 M.g.win0.x2 M.g.win0.y1 M.g.win0.y2 x y w Config.m0H,
      in1 := inWin M.g.win1.x1 M.g.win1.x2 M.g.win1.y1 M.g.win1.y2 x y w Config.m0H,
      inObj := objwin,
      set0 := M.g.winin0, set1 := M.g.winin1, setObj := M.g.winobj, setOut := M.g.winout }

/-- The blend of mode 0 (49_mode0.md R914). -/
def m0Blend (M : M0Record) : Blend :=
  { first := M.g.firstTarget, second := M.g.secondTarget, effect := M.g.effect,
    eva := min 16 M.g.eva, evb := min 16 M.g.evb, evy := min 16 M.g.evy }

/-- The backdrop of mode 0 (49_mode0.md R912). -/
def m0Backdrop (M : M0Record) : Word := rgba (M.pal 0 0).1 (M.pal 0 0).2.1 (M.pal 0 0).2.2

/-- The priority key of a background pixel (49_mode0.md R913): `(layer_priority, tile_priority, bg_index)` in
lexicographic order, as one number; the sprite of priority `p` has the least key of layer priority `p`. -/
def bgKey (c : BgCol) (b : Nat) : Nat := ((c.prio.toNat * 2 + 1) * 8 + c.tprio.toNat) * 4 + b
def sprKey (c : SprCol) : Nat := c.prio.toNat * 2 * 8 * 4

/-- Put a contributor behind those whose key is not greater. -/
def insertKeyed (k : Nat) (c : Contributor) : List (Nat × Contributor) → List (Nat × Contributor)
  | [] => [(k, c)]
  | (j, d) :: rest => if j ≤ k then (j, d) :: insertKeyed k c rest else (k, c) :: (j, d) :: rest

/-- Contributors in ascending order of their keys. -/
def sortKeyed (l : List (Nat × Contributor)) : List (Nat × Contributor) :=
  l.foldl (fun acc e => insertKeyed e.1 e.2 acc) []

/-- The contributor list of a column (49_mode0.md R913, R914): in key order, then the backdrop. -/
def m0Contributors (en : BitVec 6) (spr : SprCol) (bg : Nat → BgCol) (backdrop : Word) : List Contributor :=
  (sortKeyed
    ((if inSet en .obj && decide (spr.colour ≠ 0) then [(sprKey spr, spr.contributor)] else [])
      ++ ((List.range 4).filter fun b => inSet en (bgLayer b) && decide ((bg b).colour ≠ 0)).map
        fun b => (bgKey (bg b) b, (bg b).contributor b))).map Prod.snd
    ++ [⟨.bd, backdrop, false⟩]

/-- `m0_compose_line(y)`, column `x` (49_mode0.md R914), from the line buffers given. -/
def m0ComposePixel (M : M0Record) (w : Nat) (lb : LineBuffers) (y x : Nat) : Word :=
  let spr := lb.sprCol x
  let en := m0Enables M w spr.objwin x y
  composeList (m0Blend M) en (m0Contributors en spr (fun b => lb.bgCol b x) (m0Backdrop M))

/-- The row that `m0_compose_line(y)` writes. -/
def m0ComposeRow (M : M0Record) (w : Nat) (lb : LineBuffers) (y : Nat) : List Word :=
  (List.range w).map (m0ComposePixel M w lb y)

/-- The width of a mode-0 line: a `frame_width` outside 1..1280 is an inconsistent value and draws nothing
(49_mode0.md R903, assumption 20). -/
def State.m0Width (s : State) : Nat :=
  if 1 ≤ s.regs.frameWidth.toNat ∧ s.regs.frameWidth.toNat ≤ Config.fbWidthMax then s.regs.frameWidth.toNat
  else 0

/-- The line buffers of line `y` of a mode-0 frame of width `w` (49_mode0.md R902). -/
def m0Lines (M : M0Record) (w y : Nat) : LineBuffers :=
  { bg0 := bgBuffer w (m0BgPixel M 0 y), bg1 := bgBuffer w (m0BgPixel M 1 y),
    bg2 := bgBuffer w (m0BgPixel M 2 y), bg3 := bgBuffer w (m0BgPixel M 3 y),
    spr := sprBuffer w (m0SpritePixel M y) }

/-- Row `y` of a mode-0 frame of width `w` (49_mode0.md R902). -/
def m0Row (M : M0Record) (w y : Nat) : List Word :=
  let lb := m0Lines M w y
  m0ComposeRow M w lb y

/-- M0_BG_TEXT (49_mode0.md R905, R910). -/
def execM0BgText (b : Byte) (y : Half) (s : State) : Answer :=
  .next (s.setBgLine b.toNat (bgBuffer s.m0Width (m0TextPixel s.m0 b.toNat y.toNat)))

/-- M0_BG_AFFINE (49_mode0.md R906, R910). -/
def execM0BgAffine (b : Byte) (y : Half) (s : State) : Answer :=
  .next (s.setBgLine b.toNat (bgBuffer s.m0Width (m0AffinePixel s.m0 b.toNat y.toNat)))

/-- M0_SPRITE_LINE (49_mode0.md R911). -/
def execM0SpriteLine (y : Half) (s : State) : Answer :=
  .next (s.setSprLine (sprBuffer s.m0Width (m0SpritePixel s.m0 y.toNat)))

/-- M0_COMPOSE_LINE (49_mode0.md R914). -/
def execM0ComposeLine (y : Half) (s : State) : Answer :=
  .next { s with fb := writeRow s.fb s.m0Width y.toNat (m0ComposeRow s.m0 s.m0Width s.line y.toNat) }

end Sys2Proof.Machine
end

