-- ==== Sys2Proof/Machine/Frame.lean ====
section
/-! DEFINITION. The mode dispatcher and the frame loops (47_dispatch.md; 48_dmg.md R851; 49_mode0.md R902). One `render_frame` is
one atomic transition (00_scope.md R9), after which no line buffer survives (10_state.md R136). -/

namespace Sys2Proof.Machine

open Sys2Proof

/-- The forced-blank fill: every word of the framebuffer array is white (47_dispatch.md R804, 42_palette.md R506). -/
def State.forcedBlankFill (s : State) : State :=
  { s with fb := Memory.writeBlock 0 s.fb 0 (List.replicate Config.fbWords Config.white) }

/-- A rendered frame of width `w` and height `h`: its rows are written and the line buffers discarded. -/
def State.withFrame (s : State) (w h : Nat) (row : Nat → List Word) : State :=
  { s with fb := writeFrame s.fb w h row, line := LineBuffers.cleared }

/-- Column `x` of line `y` of BG `b` in a frame of mode 1 (`mixed` false, 47_dispatch.md R805) or mode 2 (`mixed` true, R806): a
disabled BG stays transparent, and mode 2 has no BG3. -/
def gbaBgPixel (s : State) (mixed : Bool) (b y x : Nat) : BgCol :=
  if s.bgOn b then
    if mixed && decide (b = 2) then affineBgPixel s b y x
    else if mixed && decide (b = 3) then BgCol.transparent
    else textBgPixel s b y x
  else BgCol.transparent

/-- The line buffers of line `y` of a frame of mode 1 or 2. -/
def gbaLines (s : State) (mixed : Bool) (y : Nat) : LineBuffers :=
  { bg0 := bgBuffer Config.gbaW (gbaBgPixel s mixed 0 y), bg1 := bgBuffer Config.gbaW (gbaBgPixel s mixed 1 y),
    bg2 := bgBuffer Config.gbaW (gbaBgPixel s mixed 2 y), bg3 := bgBuffer Config.gbaW (gbaBgPixel s mixed 3 y),
    spr := sprBuffer Config.gbaW (spritePixel s y) }

/-- Row `y` of a frame of mode 1 or 2. -/
def gbaRow (s : State) (mixed : Bool) (y : Nat) : List Word :=
  let lb := gbaLines s mixed y
  composeRow s lb y

/-- `render_gba` (47_dispatch.md R803, R805, R806). -/
def State.renderGba (s : State) (mixed : Bool) : State :=
  if s.forcedBlankGba then s.forcedBlankFill
  else s.withFrame Config.gbaW Config.gbaH (gbaRow s mixed)

/-- `render_dmg` (48_dmg.md R851, R852). -/
def State.renderDmg (s : State) : State :=
  if lcdOn s.lcdc then s.withFrame Config.dmgW Config.dmgH (dmgRow s) else s.forcedBlankFill

/-- `render_mode0` (49_mode0.md R902, R903): forced blank first, then the legality of `frame_width`. -/
def State.renderMode0 (s : State) : State :=
  if s.m0.g.forcedBlank then s.forcedBlankFill
  else if 1 ≤ s.regs.frameWidth.toNat ∧ s.regs.frameWidth.toNat ≤ Config.fbWidthMax then
    s.withFrame s.regs.frameWidth.toNat Config.m0H (m0Row s.m0 s.regs.frameWidth.toNat)
  else s

/-- `render_frame` (47_dispatch.md R800): any other mode leaves everything as it is (R802). -/
def State.render (s : State) : State :=
  match s.regs.mode.toNat with
  | 0 => s.renderMode0
  | 1 => s.renderGba false
  | 2 => s.renderGba true
  | 7 => s.renderDmg
  | _ => s

/-- RENDER_FRAME (47_dispatch.md R800). -/
def execRenderFrame (s : State) : Answer := .next s.render

/-- RENDER_FRAME.MODE0 (49_mode0.md R902). -/
def execRenderFrameMode0 (s : State) : Answer := .next s.renderMode0

/-- RENDER_FRAME.GBA_TEXT (47_dispatch.md R805). -/
def execRenderFrameGbaText (s : State) : Answer := .next (s.renderGba false)

/-- RENDER_FRAME.GBA_MIXED (47_dispatch.md R806). -/
def execRenderFrameGbaMixed (s : State) : Answer := .next (s.renderGba true)

/-- RENDER_FRAME.DMG (48_dmg.md R851). -/
def execRenderFrameDmg (s : State) : Answer := .next s.renderDmg

/-- RENDER_FRAME.NOP (47_dispatch.md R802): the framebuffer is left untouched, forced blank is not consulted. -/
def execRenderFrameNop (_mode : Word) (s : State) : Answer := .next s

/-- FORCED_BLANK_GBA (47_dispatch.md R803, R804): the DISPCNT word has FORCED_BLANK = 1. -/
def execForcedBlankGba (_dispcnt : Half) (s : State) : Answer := .next s.forcedBlankFill

/-- FORCED_BLANK_FILL (47_dispatch.md R804). -/
def execForcedBlankFill (s : State) : Answer := .next s.forcedBlankFill

/-- FORCED_BLANK_DMG (48_dmg.md R852): the LCDC word has LCD_ON = 0. -/
def execForcedBlankDmg (_lcdc : Byte) (s : State) : Answer := .next s.forcedBlankFill

/-- FORCED_BLANK_MODE0 (49_mode0.md R903): the row has no selector word, so its field `G.forced_blank` is read. -/
def execForcedBlankMode0 (s : State) : Answer :=
  .next (if s.m0.g.forcedBlank then s.forcedBlankFill else s)

end Sys2Proof.Machine
end

