-- ==== Sys2Proof/Machine/Dispatch.lean ====
section
/-! DEFINITION. What each instruction does: one arm per constructor of `Instr`, each one call of its meaning. -/

namespace Sys2Proof.Machine

open Sys2Proof

def exec (i : Instr) (s : State) : Host.Outcome State Fault Refusal :=
  match i with
  | .readU8 v off => Sys2Proof.Machine.execReadU8 v off s
  | .readU16Le v off => Sys2Proof.Machine.execReadU16Le v off s
  | .readU32Le v off => Sys2Proof.Machine.execReadU32Le v off s
  | .hostWrite op => Sys2Proof.Machine.execHostWrite op s
  | .hostRead r off n => Sys2Proof.Machine.execHostRead r off n s
  | .getFramebuffer => Sys2Proof.Machine.execGetFramebuffer s
  | .dec4 v ta px py => Sys2Proof.Machine.execDec4 v ta px py s
  | .dec8 v ta px py => Sys2Proof.Machine.execDec8 v ta px py s
  | .decDmg ta px py => Sys2Proof.Machine.execDecDmg ta px py s
  | .decode v ta px py bpp8 => Sys2Proof.Machine.execDecode v ta px py bpp8 s
  | .fetch v ta px py hf vf bpp8 => Sys2Proof.Machine.execFetch v ta px py hf vf bpp8 s
  | .flipNone px py wpx hpx => Sys2Proof.Machine.execFlipNone px py wpx hpx s
  | .flipH px py wpx hpx => Sys2Proof.Machine.execFlipH px py wpx hpx s
  | .flipV px py wpx hpx => Sys2Proof.Machine.execFlipV px py wpx hpx s
  | .flipHV px py wpx hpx => Sys2Proof.Machine.execFlipHV px py wpx hpx s
  | .rgb555ToRgba c => Sys2Proof.Machine.execRgb555ToRgba c s
  | .dmgShade p idx => Sys2Proof.Machine.execDmgShade p idx s
  | .rgb888ToRgba r g b => Sys2Proof.Machine.execRgb888ToRgba r g b s
  | .textBgLine b y => Sys2Proof.Machine.execTextBgLine b y s
  | .affineBgLineWrap cnt n y => Sys2Proof.Machine.execAffineBgLineWrap cnt n y s
  | .affineBgLineClip cnt n y => Sys2Proof.Machine.execAffineBgLineClip cnt n y s
  | .spriteLine y => Sys2Proof.Machine.execSpriteLine y s
  | .spriteNormal a0 a1 a2 y => Sys2Proof.Machine.execSpriteNormal a0 a1 a2 y s
  | .spriteAffine a0 a1 a2 y => Sys2Proof.Machine.execSpriteAffine a0 a1 a2 y s
  | .spriteAffineDbl a0 a1 a2 y => Sys2Proof.Machine.execSpriteAffineDbl a0 a1 a2 y s
  | .spriteHidden a0 a1 a2 y => Sys2Proof.Machine.execSpriteHidden a0 a1 a2 y s
  | .omodeNormal sx prio c => Sys2Proof.Machine.execOmodeNormal sx prio c s
  | .omodeSemi sx prio c => Sys2Proof.Machine.execOmodeSemi sx prio c s
  | .omodeObjwin sx => Sys2Proof.Machine.execOmodeObjwin sx s
  | .omodeHidden sx => Sys2Proof.Machine.execOmodeHidden sx s
  | .objSizeSquare8x8 affine dbl yRaw xRaw => Sys2Proof.Machine.execObjSizeSquare8x8 affine dbl yRaw xRaw s
  | .objSizeSquare16x16 affine dbl yRaw xRaw => Sys2Proof.Machine.execObjSizeSquare16x16 affine dbl yRaw xRaw s
  | .objSizeSquare32x32 affine dbl yRaw xRaw => Sys2Proof.Machine.execObjSizeSquare32x32 affine dbl yRaw xRaw s
  | .objSizeSquare64x64 affine dbl yRaw xRaw => Sys2Proof.Machine.execObjSizeSquare64x64 affine dbl yRaw xRaw s
  | .objSizeWide16x8 affine dbl yRaw xRaw => Sys2Proof.Machine.execObjSizeWide16x8 affine dbl yRaw xRaw s
  | .objSizeWide32x8 affine dbl yRaw xRaw => Sys2Proof.Machine.execObjSizeWide32x8 affine dbl yRaw xRaw s
  | .objSizeWide32x16 affine dbl yRaw xRaw => Sys2Proof.Machine.execObjSizeWide32x16 affine dbl yRaw xRaw s
  | .objSizeWide64x32 affine dbl yRaw xRaw => Sys2Proof.Machine.execObjSizeWide64x32 affine dbl yRaw xRaw s
  | .objSizeTall8x16 affine dbl yRaw xRaw => Sys2Proof.Machine.execObjSizeTall8x16 affine dbl yRaw xRaw s
  | .objSizeTall8x32 affine dbl yRaw xRaw => Sys2Proof.Machine.execObjSizeTall8x32 affine dbl yRaw xRaw s
  | .objSizeTall16x32 affine dbl yRaw xRaw => Sys2Proof.Machine.execObjSizeTall16x32 affine dbl yRaw xRaw s
  | .objSizeTall32x64 affine dbl yRaw xRaw => Sys2Proof.Machine.execObjSizeTall32x64 affine dbl yRaw xRaw s
  | .objSizeReserved size => Sys2Proof.Machine.execObjSizeReserved size s
  | .windowIn h v x y w hs => Sys2Proof.Machine.execWindowIn h v x y w hs s
  | .windowEnables x y => Sys2Proof.Machine.execWindowEnables x y s
  | .effectNone bldcnt top bot => Sys2Proof.Machine.execEffectNone bldcnt top bot s
  | .effectAlpha bldcnt top bot => Sys2Proof.Machine.execEffectAlpha bldcnt top bot s
  | .effectBrighten bldcnt top bot => Sys2Proof.Machine.execEffectBrighten bldcnt top bot s
  | .effectDarken bldcnt top bot => Sys2Proof.Machine.execEffectDarken bldcnt top bot s
  | .semiForcedAlpha t bot => Sys2Proof.Machine.execSemiForcedAlpha t bot s
  | .composeLine y => Sys2Proof.Machine.execComposeLine y s
  | .renderFrame => Sys2Proof.Machine.execRenderFrame s
  | .renderFrameMode0 => Sys2Proof.Machine.execRenderFrameMode0 s
  | .renderFrameGbaText => Sys2Proof.Machine.execRenderFrameGbaText s
  | .renderFrameGbaMixed => Sys2Proof.Machine.execRenderFrameGbaMixed s
  | .renderFrameDmg => Sys2Proof.Machine.execRenderFrameDmg s
  | .renderFrameNop mode => Sys2Proof.Machine.execRenderFrameNop mode s
  | .forcedBlankGba dispcnt => Sys2Proof.Machine.execForcedBlankGba dispcnt s
  | .forcedBlankFill => Sys2Proof.Machine.execForcedBlankFill s
  | .forcedBlankDmg lcdc => Sys2Proof.Machine.execForcedBlankDmg lcdc s
  | .forcedBlankMode0 => Sys2Proof.Machine.execForcedBlankMode0 s
  | .dmgTileUnsigned lcdc t => Sys2Proof.Machine.execDmgTileUnsigned lcdc t s
  | .dmgTileSigned lcdc t => Sys2Proof.Machine.execDmgTileSigned lcdc t s
  | .dmgObj8 lcdc n => Sys2Proof.Machine.execDmgObj8 lcdc n s
  | .dmgObj16 lcdc n => Sys2Proof.Machine.execDmgObj16 lcdc n s
  | .dmgSpriteEntry b0 b1 b2 b3 x y => Sys2Proof.Machine.execDmgSpriteEntry b0 b1 b2 b3 x y s
  | .dmgPixel x y sel => Sys2Proof.Machine.execDmgPixel x y sel s
  | .m0BgText b y => Sys2Proof.Machine.execM0BgText b y s
  | .m0BgAffine b y => Sys2Proof.Machine.execM0BgAffine b y s
  | .m0SpriteLine y => Sys2Proof.Machine.execM0SpriteLine y s
  | .m0ComposeLine y => Sys2Proof.Machine.execM0ComposeLine y s

end Sys2Proof.Machine
end

