-- ==== Sys2Proof/Machine/Step.lean ====
section
/-! DEFINITION. One step: the next command of the host's port is decoded and run. The spec has no instruction stream
(30_encoding.md R300): the commands are the operations of the opcode table, which the host issues one after the other
(00_scope.md R9, 20_memory.md R211; assumption 1). -/

namespace Sys2Proof.Machine

open Sys2Proof

/-- The machine takes the command at the front of the port and runs it. With no command pending it waits (assumption 23);
bytes that are no command are refused (assumption 24). -/
def step (s : State) : Host.Outcome State Fault Refusal :=
  match s.fetch with
  | .idle => .next s
  | .command i rest => exec i (s.advance rest)
  | .bad e => .refused (.badCommand e)

/-- `s` with the instruction of the bare table word `w` pending, and nothing after it. This stands for the host issuing the
command (assumption 1); the operands a bare word does not have are zero. -/
def State.withFetchWord (s : State) (nbits w : Nat) : State :=
  match tableBytes nbits w with
  | none => s.withPort []
  | some bs =>
    match decode bs with
    | .ok (_, rest) => s.withPort (bs.take (bs.length - rest.length))
    | .error _ => s.withPort bs

end Sys2Proof.Machine
end

