-- ==== Sys2Proof/Safety.lean ====
section
/-! DEFINITION. The terms in which statements about the machine are made: what holds of every state a run can reach, what the
host can see, and the operations a frame is made of. -/

namespace Sys2Proof.Machine

open Sys2Proof

/-! ### The invariant -/

/-- A sparse array is in its canonical form and inside its bounds. -/
abbrev Memory.ok {α : Type} [DecidableEq α] (d : α) (size : Nat) (m : Memory α) : Prop :=
  Memory.wf d m ∧ Memory.below size m

/-- Every region and every line buffer is canonical and holds nothing outside its bounds (20_memory.md R208,
10_state.md R135). -/
def State.canonical (s : State) : Prop :=
  Memory.ok 0 Config.vramSize s.vram ∧ Memory.ok 0 Config.ioSize s.io ∧
  Memory.ok 0 Config.plttSize s.bgPltt ∧ Memory.ok 0 Config.plttSize s.objPltt ∧
  Memory.ok 0 Config.oamSize s.oam ∧ Memory.ok 0 Config.fbWords s.fb ∧
  (∀ b : Nat, b < 4 → Memory.ok BgCol.transparent Config.fbWidthMax (s.line.bg b)) ∧
  Memory.ok SprCol.empty Config.fbWidthMax s.line.spr

/-- A word that was never emitted (0), or an emitted pixel: its alpha is 0xFF (30_encoding.md R307). -/
abbrev opaqueOrClear (w : Word) : Prop := w = 0 ∨ w.extractLsb' 24 8 = 0xFF

/-- Every framebuffer word is clear or opaque. -/
def State.fbOpaque (s : State) : Prop := ∀ i : Nat, opaqueOrClear (s.fbWord i)

/-- Every line-buffer colour and every colour given back to the host is clear or opaque (30_encoding.md R307,
46_compositor.md R721). -/
def State.linesOpaque (s : State) : Prop :=
  (∀ b x : Nat, opaqueOrClear (s.line.bgCol b x).colour) ∧
  (∀ x : Nat, opaqueOrClear (s.line.sprCol x).colour) ∧
  (∀ w : Word, s.result = .colour w → w.extractLsb' 24 8 = 0xFF)

/-- Every colour the core holds is clear or opaque. -/
def State.coloursOpaque (s : State) : Prop := s.fbOpaque ∧ s.linesOpaque

/-- The host's writes to the framebuffer (assumption 16). -/
def HostOp.writesFb : HostOp → Bool
  | .store r _ _ _ => decide (r = .fb)
  | .fill r _ _ _ => decide (r = .fb)
  | .mode _ => false
  | .frameWidth _ => false

/-- The next command is a host write to the framebuffer. -/
def State.hostWritesFb (s : State) : Prop :=
  ∃ (op : HostOp) (rest : List Byte), decode s.port = .ok (.hostWrite op, rest) ∧ HostOp.writesFb op = true

/-! ### What two states share -/

/-- The same regions of 20_memory.md R208 but the framebuffer, and the same `Registers`: all that the core reads, which only the
host writes (60_exceptions.md R1008). -/
def State.sameInputs (s t : State) : Prop :=
  t.vram = s.vram ∧ t.io = s.io ∧ t.bgPltt = s.bgPltt ∧ t.objPltt = s.objPltt ∧ t.oam = s.oam ∧ t.regs = s.regs

/-! ### Runs of operations -/

/-- Run the instructions of a list in order, stopping at the first that gives no next state. -/
def execAll : List Instr → State → Host.Outcome State Fault Refusal
  | [], s => .next s
  | i :: is, s =>
    match exec i s with
    | .next t => execAll is t
    | .fault f => .fault f
    | .refused r => .refused r

/-- The state with the line buffers just created (10_state.md R135, 45_sprites.md R651). -/
def State.clearLine (s : State) : State := { s with line := LineBuffers.cleared }

/-- The instruction that draws OAM entry `i` on line `y`: the row of attr0 (30_encoding.md R323), the entry's three words. -/
def State.spriteInstr (s : State) (y : Byte) (i : Nat) : Instr :=
  spriteRow (s.oam16 (4 * i)) (s.oam16 (4 * i + 1)) (s.oam16 (4 * i + 2)) y

/-- The instruction that draws affine BG 2 on line `y`: the row of BG2CNT's WRAP bit (10_state.md R112, 44_affine_bg.md
R603). -/
def State.affineInstr (s : State) (y : Byte) : Instr :=
  let cnt := s.readU16 .io 0x0C
  if bit cnt 13 then .affineBgLineWrap cnt 2 y else .affineBgLineClip cnt 2 y

/-- The operations of line `y` of a frame of mode 1 (47_dispatch.md R805): BG `b` is enabled by DISPCNT[8+b] (10_state.md
R110). -/
def State.gbaTextLine (s : State) (y : Nat) : List Instr :=
  ((List.range 4).filter fun b => bit (s.readU16 .io 0) (8 + b)).map
      (fun b => .textBgLine (BitVec.ofNat 8 b) (BitVec.ofNat 8 y))
    ++ [.spriteLine (BitVec.ofNat 8 y), .composeLine (BitVec.ofNat 8 y)]

/-- The operations of line `y` of a frame of mode 2 (47_dispatch.md R806). -/
def State.gbaMixedLine (s : State) (y : Nat) : List Instr :=
  ((List.range 2).filter fun b => bit (s.readU16 .io 0) (8 + b)).map
      (fun b => .textBgLine (BitVec.ofNat 8 b) (BitVec.ofNat 8 y))
    ++ (if bit (s.readU16 .io 0) 10 then [s.affineInstr (BitVec.ofNat 8 y)] else [])
    ++ [.spriteLine (BitVec.ofNat 8 y), .composeLine (BitVec.ofNat 8 y)]

/-- The operations of line `y` of a frame of mode 0 (49_mode0.md R902). -/
def State.mode0Line (s : State) (y : Nat) : List Instr :=
  ((List.range 4).filter fun b => (s.m0.bg b).enabled).map (fun b =>
      if (s.m0.bg b).affine then .m0BgAffine (BitVec.ofNat 8 b) (BitVec.ofNat 16 y)
      else .m0BgText (BitVec.ofNat 8 b) (BitVec.ofNat 16 y))
    ++ [.m0SpriteLine (BitVec.ofNat 16 y), .m0ComposeLine (BitVec.ofNat 16 y)]

end Sys2Proof.Machine
end

