-- ==== Sys2Proof/Certificates/Slice0/Obligations.lean ====
section
/-! DEFINITION. The statements for the provers. Each docstring names the rule of spec/ it formalises, or says whose choice
it is. `s.readU8`, `s.readU16`, `s.readU32` are the spec's `read_u8`, `read_u16_le`, `read_u32_le`
(`BoundsCheckedReads` says what they give), `bitsN v lo len` is the spec's `v[lo+len-1:lo]` as a number, `bit v i` its
`v[i]` (00_scope.md R12). An equation `exec i s = .next { s with f := … }` says that nothing but `f` changes. -/

open Sys2Proof Sys2Proof.Machine

/-! ### Reset, steps, decoding -/

/-- 10_state.md R140, which calls its zeros the spec's own choice ("No source states a reset value; zero is the spec's
choice"): every byte of every region, every framebuffer word and both `Registers` fields are 0 (assumption 9). -/
def Obligations.ResetAllZero : Prop :=
  (∀ (r : Region) (o : Nat), State.reset.regionByte r o = 0) ∧ (∀ i : Nat, State.reset.fbWord i = 0) ∧
  State.reset.regs.mode = 0 ∧ State.reset.regs.frameWidth = 0

/-- 70_reset_and_hazards.md R1101 (derived there): a frame rendered straight after reset changes nothing, whatever the
mode-0 layout. It rests on the zeros of 10_state.md R140, the spec's own choice D2 (assumption 9). -/
def Obligations.ResetRenderIsNoOp : Prop := exec .renderFrame State.reset = .next State.reset

/-- The model's command port (assumptions 1, 2): when the pending bytes decode to an instruction, the step is that
instruction run on the state whose port holds the bytes after it. -/
def Obligations.StepRunsDecodedInstruction : Prop :=
  ∀ (s : State) (i : Instr) (rest : List Byte), decode s.port = .ok (i, rest) →
    i.wellFormed = true ∧ step s = exec i { s with port := rest }

/-- The model's command port (assumptions 23, 24): with nothing pending the step changes nothing, and bytes that are no command
are refused by name. -/
def Obligations.StepIdlesOrRefuses : Prop :=
  (∀ s : State, s.port = [] → step s = .next s) ∧
  (∀ (s : State) (e : DecodeError), s.port ≠ [] → decode s.port = .error e → step s = .refused (.badCommand e))

/-- A few words written out from spec/opcode_table.json and 30_encoding.md, in the model's command layout (assumption 2). -/
def Obligations.DecodeSampleWords : Prop :=
  decode [0x00, 0x00, 0xFF, 0x7F, 0x01, 0x00] = .ok (.readU8 .vramGba 0x17FFF, []) ∧
  decode [0x8D, 0x07, 0x00, 0x00, 0x00] = .ok (.renderFrameDmg, []) ∧
  decode [0x8D, 0x03, 0x00, 0x00, 0x00] = .ok (.renderFrameNop 3, []) ∧
  decode [0x89, 0x1E, 0x03, 0x28, 0x40, 0x04, 0x00, 0x26] = .ok (.spriteAffineDbl 0x031E 0x4028 0x0004 38, []) ∧
  decode [0x88, 0x00, 0x28, 0x00, 0x05] = .ok (.affineBgLineWrap 0x2800 2 5, []) ∧
  decode [0x8E, 0x80, 0x00] = .ok (.forcedBlankGba 0x0080, []) ∧
  decode [0x90, 0x81, 0x80] = .ok (.dmgTileSigned 0x81 0x80, [])

/-- Decoding what the encoder writes gives the instruction back, with every operand, and leaves the bytes after it. -/
def Obligations.DecodeEncodeRoundTrip : Prop :=
  ∀ (i : Instr) (rest : List Byte), i.wellFormed = true → decode (encode i ++ rest) = .ok (i, rest)

/-- The decoder reads at least one byte, only well-formed instructions, and looks at no byte it does not take. -/
def Obligations.DecodeReadsOnlyItsBytes : Prop :=
  ∀ (bs rest : List Byte) (i : Instr), decode bs = .ok (i, rest) → i.wellFormed = true ∧
    ∃ used : List Byte, used ≠ [] ∧ bs = used ++ rest ∧ ∀ rest' : List Byte, decode (used ++ rest') = .ok (i, rest')

/-- 30_encoding.md R323: for EVERY selector word, the bits the rule names choose the row, whatever the word's other bits hold
(in the model's command layout, assumption 2). -/
def Obligations.SelectorsChooseTheirRow : Prop :=
  (∀ (w : Half) (v : View) (ta : Word) (px py : Byte) (rest : List Byte), px.toNat < 8 → py.toNat < 8 →
    decode ([0x80] ++ putHalf w ++ [viewCode v] ++ putWord ta ++ [px, py] ++ rest) =
      .ok (if bit w 7 then .dec8 v ta px py else .dec4 v ta px py, rest)) ∧
  (∀ (w : Half) (v : View) (ta : Word) (px py : Byte) (rest : List Byte), px.toNat < 8 → py.toNat < 8 →
    decode ([0x81] ++ putHalf w ++ [viewCode v] ++ putWord ta ++ [px, py] ++ rest) =
      .ok (if bit w 13 then .dec8 v ta px py else .dec4 v ta px py, rest)) ∧
  (∀ (w : Half) (top : Contributor) (bot : Option Contributor) (rest : List Byte),
    top.wellFormed = true → bot.all Contributor.wellFormed = true →
    decode ([0x8C] ++ putHalf w ++ putContributor top ++ putOptContributor bot ++ rest) =
      .ok (match bitsN w 6 2 with
        | 0 => .effectNone w top bot
        | 1 => .effectAlpha w top bot
        | 2 => .effectBrighten w top bot
        | _ => .effectDarken w top bot, rest)) ∧
  (∀ (a0 : Half) (sx prio : Byte) (c : Half) (rest : List Byte), sx.toNat < 240 → prio.toNat < 4 →
    decode ([0x8A] ++ putHalf a0 ++ [sx] ++ (if bit a0 11 then [] else [prio] ++ putHalf c) ++ rest) =
      .ok (match bitsN a0 10 2 with
        | 0 => .omodeNormal sx prio c
        | 1 => .omodeSemi sx prio c
        | 2 => .omodeObjwin sx
        | _ => .omodeHidden sx, rest)) ∧
  (∀ (a0 a1 a2 : Half) (y : Byte) (rest : List Byte), y.toNat < 160 →
    decode ([0x89] ++ putHalf a0 ++ putHalf a1 ++ putHalf a2 ++ [y] ++ rest) =
      .ok (match bit a0 8, bit a0 9 with
        | false, false => .spriteNormal a0 a1 a2 y
        | false, true => .spriteHidden a0 a1 a2 y
        | true, false => .spriteAffine a0 a1 a2 y
        | true, true => .spriteAffineDbl a0 a1 a2 y, rest)) ∧
  (∀ (w : List Byte) (hf vf : Bool) (px py wpx hpx : Half) (rest : List Byte),
    px.toNat < wpx.toNat → py.toNat < hpx.toNat →
    ((∃ e : Half, w = [0x83] ++ putHalf e ∧ hf = bit e 10 ∧ vf = bit e 11) ∨
      (∃ a1 : Half, w = [0x84] ++ putHalf a1 ∧ hf = bit a1 12 ∧ vf = bit a1 13) ∨
      (∃ e : Word, w = [0x85] ++ putWord e ∧ hf = bit e 27 ∧ vf = bit e 28) ∨
      (∃ f : Byte, w = [0x86, f] ∧ hf = bit f 5 ∧ vf = bit f 6)) →
    decode (w ++ putHalf px ++ putHalf py ++ putHalf (wpx - 1) ++ putHalf (hpx - 1) ++ rest) =
      .ok (match hf, vf with
        | false, false => .flipNone px py wpx hpx
        | true, false => .flipH px py wpx hpx
        | false, true => .flipV px py wpx hpx
        | true, true => .flipHV px py wpx hpx, rest)) ∧
  (∀ (w t : Byte) (rest : List Byte),
    decode ([0x90, w, t] ++ rest) = .ok (if bit w 4 then .dmgTileUnsigned w t else .dmgTileSigned w t, rest)) ∧
  (∀ (w i : Byte) (rest : List Byte), i.toNat < 40 →
    decode ([0x91, w, i] ++ rest) = .ok (if bit w 2 then .dmgObj16 w i else .dmgObj8 w i, rest))

/-- 60_exceptions.md R1000: the core is total, so every operation answers a next state, whatever its operands and the state. -/
def Obligations.EveryInstructionCompletes : Prop :=
  ∀ (i : Instr) (s : State), ∃ t : State, exec i s = .next t

/-! ### Memory views and the host's port -/

/-- 40_memory_views.md R400 (sizes by its decisions D3, D4, D29): the size of every view, and the region each view reads. `TILES`,
the view 49_mode0.md R908 hands to the decoders, has 2 MiB and reads the tile bytes of the mode-0 record under the OPEN layout
(assumption 7). Then that typed record itself (10_state.md R130, 49_mode0.md R900), for EVERY layout and VRAM: a field is bits
`lo` to `lo+len-1` of the little-endian value at its place, 0 where that value leaves `VRAM_SIZE`. That a Boolean is a field that
is not 0, a signed field the two's complement of its placed width, and that a field of stated width is cut to it, is the model's
choice (assumption 7). R130 states no width for `BG[b].layer_priority`: that it is cut to the 8 bits of `bg_prio` (10_state.md R135)
is the model's choice (DEDUCED, assumption 19). -/
def Obligations.ViewsOfTheRegions : Prop :=
  (viewSize .vramGba = 0x18000 ∧ viewSize .vramDmg = 0x20A8 ∧ viewSize .vramM0 = 0x400000 ∧ viewSize .io = 0x400 ∧
    viewSize .bgPltt = 0x200 ∧ viewSize .objPltt = 0x200 ∧ viewSize .oam = 0x400) ∧
  (∀ (s : State) (o : Nat),
    s.viewByte .vramGba o = s.regionByte .vram o ∧ s.viewByte .vramDmg o = s.regionByte .vram o ∧
    s.viewByte .vramM0 o = s.regionByte .vram o ∧ s.viewByte .io o = s.regionByte .io o ∧
    s.viewByte .bgPltt o = s.regionByte .bgPltt o ∧ s.viewByte .objPltt o = s.regionByte .objPltt o ∧
    s.viewByte .oam o = s.regionByte .oam o) ∧
  (viewSize .m0Tiles = 0x200000 ∧ ∀ (s : State) (o : Nat), s.viewByte .m0Tiles o = s.m0.tile o) ∧
  (∀ s : State, s.m0 = m0Record Config.mode0Layout s.vram) ∧
  ∀ (L : Config.Mode0Layout) (vram : Memory Byte),
    let byte := fun o : Nat => (Memory.read 0 vram o).toNat
    let value := fun (o : Nat) (n : Width) =>
      match n with
      | .w1 => byte o
      | .w2 => byte o + byte (o + 1) * 2 ^ 8
      | .w4 => byte o + byte (o + 1) * 2 ^ 8 + byte (o + 2) * 2 ^ 16 + byte (o + 3) * 2 ^ 24
    let num : Config.M0Field → Nat := fun f =>
      let p := L.place f
      if p.off + widthBytes p.n ≤ 0x400000 then value p.off p.n / 2 ^ p.lo % 2 ^ p.len else 0
    let flag := fun f : Config.M0Field => decide (num f ≠ 0)
    let twos : Nat → Int → Int := fun w v => if 2 * (v % 2 ^ w) < 2 ^ w then v % 2 ^ w else v % 2 ^ w - 2 ^ w
    let signed := fun f : Config.M0Field => twos (L.place f).len (num f)
    let s16 := fun f : Config.M0Field => twos 16 (signed f)
    let s32 := fun f : Config.M0Field => twos 32 (signed f)
    m0Record L vram =
      { g := { forcedBlank := flag .forcedBlank, objOn := flag .objOn,
               win0On := flag .win0On, win1On := flag .win1On, objwinOn := flag .objwinOn,
               win0 := ⟨num .win0X1, num .win0X2, num .win0Y1, num .win0Y2⟩,
               win1 := ⟨num .win1X1, num .win1X2, num .win1Y1, num .win1Y2⟩,
               winin0 := BitVec.ofNat 6 (num .winin0), winin1 := BitVec.ofNat 6 (num .winin1),
               winout := BitVec.ofNat 6 (num .winout), winobj := BitVec.ofNat 6 (num .winobj),
               effect := BitVec.ofNat 2 (num .effect),
               firstTarget := BitVec.ofNat 6 (num .firstTarget), secondTarget := BitVec.ofNat 6 (num .secondTarget),
               eva := num .eva, evb := num .evb, evy := num .evy }
        bg := fun b =>
          { enabled := flag (.bgEnabled b), widthTiles := num (.bgWidthTiles b), heightTiles := num (.bgHeightTiles b),
            bpp8 := flag (.bgBpp8 b), wrapX := flag (.bgWrapX b), wrapY := flag (.bgWrapY b), affine := flag (.bgAffine b),
            matrix := ⟨s16 (.bgPa b), s16 (.bgPb b), s16 (.bgPc b), s16 (.bgPd b)⟩,
            ox := s32 (.bgOx b), oy := s32 (.bgOy b),
            scrollX := signed (.bgScrollX b), scrollY := signed (.bgScrollY b),
            layerPriority := BitVec.ofNat 8 (num (.bgLayerPriority b)) }
        map := fun b k => BitVec.ofNat 32 (num (.map b k))
        tile := fun o => BitVec.ofNat 8 (num (.tile o))
        pal := fun k i => (BitVec.ofNat 8 (num (.palR k i)), BitVec.ofNat 8 (num (.palG k i)), BitVec.ofNat 8 (num (.palB k i)))
        saff := fun m => ⟨s16 (.saffPa m), s16 (.saffPb m), s16 (.saffPc m), s16 (.saffPd m)⟩
        spr := fun i =>
          { x := signed (.sprX i), y := signed (.sprY i), w8 := num (.sprW8 i), h8 := num (.sprH8 i), tile := num (.sprTile i),
            palette := num (.sprPalette i) % 256, priority := num (.sprPriority i), affineIndex := num (.sprAffineIndex i),
            enabled := flag (.sprEnabled i), bpp8 := flag (.sprBpp8 i), hflip := flag (.sprHflip i),
            vflip := flag (.sprVflip i), affine := flag (.sprAffine i), doubleSize := flag (.sprDoubleSize i),
            semi := flag (.sprSemi i), objwin := flag (.sprObjwin i) }
        lineScroll := fun b l => (signed (.lineScrollX b l), signed (.lineScrollY b l))
        lineAffine := fun b l => ⟨flag (.lineValid b l), s32 (.lineTx b l), s32 (.lineTy b l)⟩
        tilemapEntries := L.tilemapEntries }

/-- 40_memory_views.md R401, R402, R403: READ_U8, READ_U16_LE and READ_U32_LE give the little-endian value of the view's bytes, and
0 as a whole where the access leaves the view. The value is in `result` (assumption 5), nothing else changes. -/
def Obligations.BoundsCheckedReads : Prop :=
  ∀ (v : View) (off : Word) (s : State),
    let b := fun k : Nat => (s.viewByte v (off.toInt.toNat + k)).toNat
    let read := fun n value : Nat => if 0 ≤ off.toInt ∧ off.toInt + n ≤ viewSize v then BitVec.ofNat 32 value else 0
    exec (.readU8 v off) s = .next { s with result := .value (read 1 (b 0)) } ∧
    exec (.readU16Le v off) s = .next { s with result := .value (read 2 (b 0 + b 1 * 2 ^ 8)) } ∧
    exec (.readU32Le v off) s =
      .next { s with result := .value (read 4 (b 0 + b 1 * 2 ^ 8 + b 2 * 2 ^ 16 + b 3 * 2 ^ 24)) }

/-- 20_memory.md R202 (derived there): while the wider access is in range, its low part is what the narrower read gives. -/
def Obligations.NarrowReadsAgree : Prop :=
  ∀ (v : View) (off : Int) (s : State),
    (0 ≤ off → off + 2 ≤ viewSize v → (s.readU16 v off).extractLsb' 0 8 = s.readU8 v off) ∧
    (0 ≤ off → off + 4 ≤ viewSize v → (s.readU32 v off).extractLsb' 0 16 = s.readU16 v off)

/-- 40_memory_views.md R405 (its decision D43), the forms W8, W16 and W32: byte `k` of the value goes to byte `off + k` where that
lies inside the region, and is dropped outside; no other byte of any region changes, and nothing else does. The framebuffer is one
of the regions (60_exceptions.md R1008, 70_reset_and_hazards.md R1102), its bytes as 20_memory.md R201 has them; that HOST_WRITE, whose
operand list in R405 does not name it, is the means of the host's writes to it is DEDUCED (assumption 16). -/
def Obligations.HostStoreBytes : Prop :=
  ∀ (r : Region) (off : Word) (n : Width) (v : Word) (s : State),
    ∃ t : State, exec (.hostWrite (.store r off n v)) s = .next t ∧
      t = { s with vram := t.vram, io := t.io, bgPltt := t.bgPltt, objPltt := t.objPltt, oam := t.oam, fb := t.fb } ∧
      ∀ (r' : Region) (a : Nat), t.regionByte r' a =
        if r' = r ∧ off.toInt ≤ a ∧ (a : Int) < off.toInt + widthBytes n ∧ a < regionSize r then
          BitVec.ofNat 8 (v.toNat / 2 ^ (8 * ((a : Int) - off.toInt).toNat))
        else s.regionByte r' a

/-- 30_encoding.md R321 (its decision D45) with 40_memory_views.md R405: FILL writes one byte value to `len` bytes from `off`, those
outside the region dropped; MODE and WIDTH assign their `Registers` field and nothing else. That FILL has a framebuffer form is
DEDUCED (assumption 16); the 32 bits of `frame_width` are the model's choice (assumption 8). -/
def Obligations.HostFillAndRegisters : Prop :=
  (∀ (r : Region) (off len : Word) (b : Byte) (s : State),
    ∃ t : State, exec (.hostWrite (.fill r off len b)) s = .next t ∧
      t = { s with vram := t.vram, io := t.io, bgPltt := t.bgPltt, objPltt := t.objPltt, oam := t.oam, fb := t.fb } ∧
      ∀ (r' : Region) (a : Nat), t.regionByte r' a =
        if r' = r ∧ off.toInt ≤ a ∧ (a : Int) < off.toInt + len.toNat ∧ a < regionSize r then b
        else s.regionByte r' a) ∧
  ∀ (m : Word) (s : State),
    exec (.hostWrite (.mode m)) s = .next { s with regs := ⟨m, s.regs.frameWidth⟩ } ∧
    exec (.hostWrite (.frameWidth m)) s = .next { s with regs := ⟨s.regs.mode, m⟩ }

/-- 40_memory_views.md R406: HOST_READ of any byte of any region gives the byte stored there (the framebuffer's bytes lie R, G, B, A
from the lowest, 20_memory.md R201), which is 0 at reset and, after a byte was written there, that byte, until a
write reaches it; the read changes nothing but `result` (assumption 5). A HOST_READ of 1, 2 or 4 bytes gives their little-endian
value, and 0 as a whole where it leaves the region: the wider reads, and the 0 past the end, are the model's choice
(assumption 31); that the write of a framebuffer byte is a HOST_WRITE is DEDUCED (assumption 16). The reset byte is the spec's choice D2
(assumption 9). -/
def Obligations.HostReadSeesLastWrite : Prop :=
  (∀ (r : Region) (off : Word) (s : State), 0 ≤ off.toInt → off.toInt < regionSize r →
    exec (.hostRead r off .w1) s =
      .next { s with result := .value (BitVec.ofNat 32 (s.regionByte r off.toInt.toNat).toNat) }) ∧
  (∀ (r : Region) (off : Word) (s : State),
    let b := fun k : Nat => (s.regionByte r (off.toInt.toNat + k)).toNat
    let read := fun n value : Nat => if 0 ≤ off.toInt ∧ off.toInt + n ≤ regionSize r then BitVec.ofNat 32 value else 0
    exec (.hostRead r off .w1) s = .next { s with result := .value (read 1 (b 0)) } ∧
    exec (.hostRead r off .w2) s = .next { s with result := .value (read 2 (b 0 + b 1 * 2 ^ 8)) } ∧
    exec (.hostRead r off .w4) s =
      .next { s with result := .value (read 4 (b 0 + b 1 * 2 ^ 8 + b 2 * 2 ^ 16 + b 3 * 2 ^ 24)) }) ∧
  (∀ (off : Word) (s : State), 0 ≤ off.toInt → off.toInt < regionSize .fb →
    let o := off.toInt.toNat
    let byte := (s.fbWord (o / 4)).toNat / 2 ^ (8 * (o % 4)) % 256
    exec (.hostRead .fb off .w1) s = .next { s with result := .value (BitVec.ofNat 32 byte) }) ∧
  (∀ (r : Region) (off : Word), 0 ≤ off.toInt → off.toInt < regionSize r →
    exec (.hostRead r off .w1) State.reset = .next { State.reset with result := .value 0 }) ∧
  (∀ (r : Region) (off v : Word) (s : State), 0 ≤ off.toInt → off.toInt < regionSize r →
    ∃ t : State, exec (.hostWrite (.store r off .w1 v)) s = .next t ∧
      exec (.hostRead r off .w1) t = .next { t with result := .value (BitVec.ofNat 32 (v.toNat % 256)) } ∧
      ∀ (r' : Region) (off' : Word), (r', off') ≠ (r, off) → 0 ≤ off'.toInt → off'.toInt < regionSize r' →
        exec (.hostRead r' off' .w1) t =
          .next { t with result := .value (BitVec.ofNat 32 (s.regionByte r' off'.toInt.toNat).toNat) })

/-- 40_memory_views.md R407 and, for the reference, 70_reset_and_hazards.md R1107 (derived there): GET_FRAMEBUFFER gives a reference,
not a copy: in whatever state it is used it reads that state's framebuffer (assumption 26). For a word index past the array's 460800
words R407 says nothing, and the equation is the model's choice (assumption 26). -/
def Obligations.GetFramebufferIsAReference : Prop :=
  ∀ s : State, exec .getFramebuffer s = .next { s with result := .framebuffer } ∧
    ∀ (t : State) (i : Nat), Result.framebuffer.deref t i = some (t.fbWord i)

/-! ### Tile pixels and colours -/

/-- 41_pixel_decoders.md R451, R453, R455: DEC4 gives the low nibble for an even column and the high nibble for an odd one, DEC8 the
byte, and DECODE is the one of them its bpp operand selects. -/
def Obligations.TilePixelDecoders : Prop :=
  ∀ (v : View) (ta : Word) (px py : Byte) (s : State), px.toNat < 8 → py.toNat < 8 →
    let x := px.toNat
    let y := py.toNat
    let b4 := (s.readU8 v (ta.toInt + y * 4 + (x / 2 : Nat))).toNat
    let i4 := BitVec.ofNat 8 (if x % 2 = 0 then b4 % 16 else b4 / 16)
    let i8 := s.readU8 v (ta.toInt + y * 8 + x)
    exec (.dec4 v ta px py) s = .next { s with result := .index i4 } ∧
    exec (.dec8 v ta px py) s = .next { s with result := .index i8 } ∧
    exec (.decode v ta px py false) s = .next { s with result := .index i4 } ∧
    exec (.decode v ta px py true) s = .next { s with result := .index i8 }

/-- 41_pixel_decoders.md R454 (plane order by its decision D7): DECDMG puts bit `7 - px` of the row's second byte above that of its
first byte. -/
def Obligations.DmgTilePixel : Prop :=
  ∀ (ta : Word) (px py : Byte) (s : State), px.toNat < 8 → py.toNat < 8 →
    let lo := (s.readU8 .vramDmg (ta.toInt + 2 * py.toNat)).toNat
    let hi := (s.readU8 .vramDmg (ta.toInt + 2 * py.toNat + 1)).toNat
    let k := 7 - px.toNat
    exec (.decDmg ta px py) s =
      .next { s with result := .index (BitVec.ofNat 8 (2 * (hi / 2 ^ k % 2) + lo / 2 ^ k % 2)) }

/-- 41_pixel_decoders.md R452: the flip the pipelines apply, over all integers, and that it is an involution; and the four flip rows,
for every coordinate and extent they can hold (16 bits of each, assumption 17). -/
def Obligations.FlipRows : Prop :=
  (∀ (px py wpx hpx : Int) (hf vf : Bool),
    let p := flipPoint px py hf vf wpx hpx
    p = (if hf then wpx - 1 - px else px, if vf then hpx - 1 - py else py) ∧
    flipPoint p.1 p.2 hf vf wpx hpx = (px, py)) ∧
  ∀ (px py wpx hpx : Half) (s : State), px.toNat < wpx.toNat → py.toNat < hpx.toNat →
    let x : Int := px.toNat
    let y : Int := py.toNat
    let fx : Int := (wpx.toNat : Int) - 1 - px.toNat
    let fy : Int := (hpx.toNat : Int) - 1 - py.toNat
    exec (.flipNone px py wpx hpx) s = .next { s with result := .point x y } ∧
    exec (.flipH px py wpx hpx) s = .next { s with result := .point fx y } ∧
    exec (.flipV px py wpx hpx) s = .next { s with result := .point x fy } ∧
    exec (.flipHV px py wpx hpx) s = .next { s with result := .point fx fy } ∧
    exec (.flipH (wpx - 1 - px) py wpx hpx) s = .next { s with result := .point x y } ∧
    exec (.flipV px (hpx - 1 - py) wpx hpx) s = .next { s with result := .point x y } ∧
    exec (.flipHV (wpx - 1 - px) (hpx - 1 - py) wpx hpx) s = .next { s with result := .point x y }

/-- 41_pixel_decoders.md R456 (derived there): FETCH is DECODE at the coordinates flipped inside the 8x8 tile. -/
def Obligations.FetchFlipsThenDecodes : Prop :=
  ∀ (v : View) (ta : Word) (px py : Byte) (hf vf bpp8 : Bool) (s : State), px.toNat < 8 → py.toNat < 8 →
    ∃ i : Byte, exec (.fetch v ta px py hf vf bpp8) s = .next { s with result := .index i } ∧
      exec (.decode v ta (if hf then 7 - px else px) (if vf then 7 - py else py) bpp8) s =
        .next { s with result := .index i }

/-- 42_palette.md R500 (bit 15 by its decision D5): each 5-bit channel shifted left by 3, alpha 0xFF, bit 15 without effect; the
result is never the transparent word 0. -/
def Obligations.Rgb555Conversion : Prop :=
  ∀ (c : Half) (s : State),
    let r := c.toNat % 32 * 8
    let g := c.toNat / 32 % 32 * 8
    let b := c.toNat / 1024 % 32 * 8
    exec (.rgb555ToRgba c) s =
      .next { s with result := .colour (BitVec.ofNat 32 (0xFF000000 + b * 2 ^ 16 + g * 2 ^ 8 + r)) } ∧
    BitVec.ofNat 32 (0xFF000000 + b * 2 ^ 16 + g * 2 ^ 8 + r) ≠ 0#32

/-- 42_palette.md R505. -/
def Obligations.Rgb888Conversion : Prop :=
  ∀ (r g b : Byte) (s : State),
    let w := BitVec.ofNat 32 (0xFF000000 + b.toNat * 2 ^ 16 + g.toNat * 2 ^ 8 + r.toNat)
    exec (.rgb888ToRgba r g b) s = .next { s with result := .colour w }

/-- 42_palette.md R504 (its decision D31 leaves the lighter shades OPEN): the slot `idx` of the palette register names the shade; shade
3 is 0xFF0F380F, the others are the free values, their alpha 0xFF by 30_encoding.md R307 (assumption 6). -/
def Obligations.DmgShadeOfSlot : Prop :=
  ∀ (p idx : Byte) (s : State), idx.toNat < 4 →
    ∃ w : Word, exec (.dmgShade p idx) s = .next { s with result := .colour w } ∧
      (p.toNat / 4 ^ idx.toNat % 4 = 3 → w = 0xFF0F380F) ∧
      ∀ k : Fin 3, p.toNat / 4 ^ idx.toNat % 4 = k.val → w = 0xFF#8 ++ Config.dmgShadeRgb k

/-! ### Backgrounds of modes 1 and 2 -/

/-- 43_text_bg.md R553, with the fields of R551 and the address of R552: every column of the line TEXT_BG_LINE draws, and that it
changes nothing but the line buffers of BG `b`. -/
def Obligations.TextBgLineColumns : Prop :=
  ∀ (b y : Byte) (s : State), b.toNat < 4 → y.toNat < 160 →
    let cnt := s.readU16 .io (0x08 + 2 * b.toNat)
    let hofs := bitsN (s.readU16 .io (0x10 + 4 * b.toNat)) 0 9
    let vofs := bitsN (s.readU16 .io (0x12 + 4 * b.toNat)) 0 9
    let mapW := if bit cnt 14 then 64 else 32
    let mapH := if bit cnt 15 then 64 else 32
    let column := fun x : Nat =>
      let sx := (x + hofs) % (mapW * 8)
      let sy := (y.toNat + vofs) % (mapH * 8)
      let col := sx / 8
      let row := sy / 8
      let sbi := col / 32 + row / 32 * (mapW / 32)
      let e := s.readU16 .vramGba
        ((bitsN cnt 8 5 * 0x800 + sbi * 0x800 + (row % 32 * 32 + col % 32) * 2 : Nat) : Int)
      let px := if bit e 10 then 7 - sx % 8 else sx % 8
      let py := if bit e 11 then 7 - sy % 8 else sy % 8
      let ta := bitsN cnt 2 2 * 0x4000 + bitsN e 0 10 * (if bit cnt 7 then 64 else 32)
      let b4 := s.readU8 .vramGba ((ta + py * 4 + px / 2 : Nat) : Int)
      let idx := if bit cnt 7 then (s.readU8 .vramGba ((ta + py * 8 + px : Nat) : Int)).toNat
        else if px % 2 = 0 then bitsN b4 0 4 else bitsN b4 4 4
      let c := s.readU16 .bgPltt ((2 * (if bit cnt 7 then idx else bitsN e 12 4 * 16 + idx) : Nat) : Int)
      if idx = 0 then BgCol.transparent else ⟨rgb555 c, BitVec.ofNat 8 (bitsN cnt 0 2), 0⟩
    ∃ t : State, exec (.textBgLine b y) s = .next t ∧ t = { s with line := t.line } ∧ t.line.spr = s.line.spr ∧
      (∀ x : Nat, t.line.bgCol b.toNat x = if x < 240 then column x else BgCol.transparent) ∧
      ∀ c x : Nat, c < 4 → c ≠ b.toNat → t.line.bgCol c x = s.line.bgCol c x

/-- 43_text_bg.md R554 (derived there): two states whose scrolls of BG `b` agree modulo the map's size in pixels, and whose other
inputs of the line agree, give the same line. -/
def Obligations.TextScrollPeriodicity : Prop :=
  ∀ (b y : Byte) (s t : State), b.toNat < 4 → y.toNat < 160 →
    t.vram = s.vram → t.bgPltt = s.bgPltt →
    t.readU16 .io (0x08 + 2 * b.toNat) = s.readU16 .io (0x08 + 2 * b.toNat) →
    let cnt := s.readU16 .io (0x08 + 2 * b.toNat)
    let mapW := if bit cnt 14 then 512 else 256
    let mapH := if bit cnt 15 then 512 else 256
    bitsN (t.readU16 .io (0x10 + 4 * b.toNat)) 0 9 % mapW = bitsN (s.readU16 .io (0x10 + 4 * b.toNat)) 0 9 % mapW →
    bitsN (t.readU16 .io (0x12 + 4 * b.toNat)) 0 9 % mapH = bitsN (s.readU16 .io (0x12 + 4 * b.toNat)) 0 9 % mapH →
    ∃ s' t' : State, exec (.textBgLine b y) s = .next s' ∧ exec (.textBgLine b y) t = .next t' ∧
      t'.line.bg b.toNat = s'.line.bg b.toNat

/-- 44_affine_bg.md R603 (its decisions D28, D49) with R601, R602: every column of the line the two affine rows draw. The cursor starts
at `X + pb*y`, `Y + pd*y` and advances by `pa`, `pc` on every column. The row's control word gives the priority, the bases and the
size, its WRAP bit is the row's (assumption 4). -/
def Obligations.AffineBgLineColumns : Prop :=
  ∀ (wrap : Bool) (cnt : Half) (n y : Byte) (s : State), (n.toNat = 2 ∨ n.toNat = 3) → y.toNat < 160 →
    bit cnt 13 = wrap →
    let A : Int := 0x20 + 0x10 * ((n.toNat : Int) - 2)
    let pa := (s.readU16 .io A).toInt
    let pb := (s.readU16 .io (A + 2)).toInt
    let pc := (s.readU16 .io (A + 4)).toInt
    let pd := (s.readU16 .io (A + 6)).toInt
    let X := ((s.readU32 .io (A + 8)).extractLsb' 0 28).toInt
    let Y := ((s.readU32 .io (A + 12)).extractLsb' 0 28).toInt
    let N : Int := if bitsN cnt 14 2 = 0 then 128 else if bitsN cnt 14 2 = 1 then 256
      else if bitsN cnt 14 2 = 2 then 512 else 1024
    let cursor := fun x : Nat => (fun p : Int × Int => (p.1 + pa, p.2 + pc))^[x] (X + pb * y.toNat, Y + pd * y.toNat)
    let column := fun x : Nat =>
      let u := (cursor x).1 / 256
      let v := (cursor x).2 / 256
      if wrap = false ∧ (u < 0 ∨ N ≤ u ∨ v < 0 ∨ N ≤ v) then BgCol.transparent
      else
        let sx := if wrap then u % N else u
        let sy := if wrap then v % N else v
        let t := s.readU8 .vramGba ((bitsN cnt 8 5 * 0x800 : Nat) + sy / 8 * (N / 8) + sx / 8)
        let idx := s.readU8 .vramGba ((bitsN cnt 2 2 * 0x4000 + t.toNat * 64 : Nat) + sy % 8 * 8 + sx % 8)
        if idx = 0 then BgCol.transparent
        else ⟨rgb555 (s.readU16 .bgPltt (2 * (idx.toNat : Int))), BitVec.ofNat 8 (bitsN cnt 0 2), 0⟩
    ∃ t : State, exec (if wrap then .affineBgLineWrap cnt n y else .affineBgLineClip cnt n y) s = .next t ∧
      t = { s with line := t.line } ∧ t.line.spr = s.line.spr ∧
      (∀ x : Nat, t.line.bgCol n.toNat x = if x < 240 then column x else BgCol.transparent) ∧
      ∀ c x : Nat, c < 4 → c ≠ n.toNat → t.line.bgCol c x = s.line.bgCol c x

/-- 44_affine_bg.md R605 (derived there): with the identity matrix and reference point (0, 0), a wrapping affine BG 2 of size 256
renders line `y` as a text BG `b` with zero scroll, 8 bpp, a 32x32 map that names the same tiles without flips, the same
character base and the same priority. -/
def Obligations.AffineIdentityIsText : Prop :=
  ∀ (b y : Byte) (cnt : Half) (s : State), b.toNat < 4 → y.toNat < 160 →
    let tcnt := s.readU16 .io (0x08 + 2 * b.toNat)
    s.readU16 .io 0x20 = 0x100 → s.readU16 .io 0x22 = 0 → s.readU16 .io 0x24 = 0 → s.readU16 .io 0x26 = 0x100 →
    (s.readU32 .io 0x28).extractLsb' 0 28 = 0 → (s.readU32 .io 0x2C).extractLsb' 0 28 = 0 →
    bit cnt 13 = true → bitsN cnt 14 2 = 1 →
    bit tcnt 7 = true → bitsN tcnt 14 2 = 0 → bitsN tcnt 2 2 = bitsN cnt 2 2 → bitsN tcnt 0 2 = bitsN cnt 0 2 →
    bitsN (s.readU16 .io (0x10 + 4 * b.toNat)) 0 9 = 0 → bitsN (s.readU16 .io (0x12 + 4 * b.toNat)) 0 9 = 0 →
    (∀ col row : Nat, col < 32 → row < 32 →
      (s.readU16 .vramGba ((bitsN tcnt 8 5 * 0x800 + (row * 32 + col) * 2 : Nat) : Int)).toNat % 2 ^ 12 =
        (s.readU8 .vramGba ((bitsN cnt 8 5 * 0x800 + (row * 32 + col) : Nat) : Int)).toNat) →
    ∃ t u : State, exec (.textBgLine b y) s = .next t ∧ exec (.affineBgLineWrap cnt 2 y) s = .next u ∧
      u.line.bg 2 = t.line.bg b.toNat

/-! ### Sprites of modes 1 and 2 -/

/-- 45_sprites.md R653, R655, R657 to R661 (bit positions, sizes and tie rule by the spec's decisions D8, D9, D11, D12): every column after
SPRITE_NORMAL draws one non-affine sprite over the sprite line, which has 240 columns (R651). That the row draws its operand words
whatever OBJ_ON holds is the model's choice (assumption 4), and so is that a raw X of 240 or more is drawn where its box reaches
the screen (assumption 30). -/
def Obligations.SpriteNormalColumns : Prop :=
  ∀ (a0 a1 a2 : Half) (y : Byte) (s : State), bit a0 8 = false → bit a0 9 = false → y.toNat < 160 →
    let ys : Int := if 160 ≤ bitsN a0 0 8 then (bitsN a0 0 8 : Int) - 256 else bitsN a0 0 8
    let xs : Int := if 240 ≤ bitsN a1 0 9 then (bitsN a1 0 9 : Int) - 512 else bitsN a1 0 9
    let bpp8 := bit a0 13
    let prio := BitVec.ofNat 8 (bitsN a2 10 2)
    let column := fun (w h : Int) (x : Nat) (old : SprCol) =>
      if ys ≤ y.toNat ∧ (y.toNat : Int) < ys + h ∧ xs ≤ x ∧ (x : Int) < xs + w then
        let tx := if bit a1 12 then w - 1 - ((x : Int) - xs) else (x : Int) - xs
        let ty := if bit a1 13 then h - 1 - ((y.toNat : Int) - ys) else (y.toNat : Int) - ys
        let k : Int := if bpp8 then 2 else 1
        let tn : Int := bitsN a2 0 10 + (if bit (s.readU16 .io 0) 6 then (ty / 8 * (w / 8) + tx / 8) * k
          else ty / 8 * 32 + tx / 8 * k)
        let b4 := s.readU8 .vramGba (0x10000 + tn * 32 + ty % 8 * 4 + tx % 8 / 2)
        let idx : Nat := if bpp8 then (s.readU8 .vramGba (0x10000 + tn * 32 + ty % 8 * 8 + tx % 8)).toNat
          else if tx % 8 % 2 = 0 then bitsN b4 0 4 else bitsN b4 4 4
        let colour := rgb555 (s.readU16 .objPltt ((2 * (if bpp8 then idx else bitsN a2 12 4 * 16 + idx) : Nat) : Int))
        if idx = 0 then old
        else if bitsN a0 10 2 = 2 then ⟨old.colour, old.prio, old.semi, true⟩
        else if bitsN a0 10 2 ≠ 3 ∧ (old.prio = 0xFF ∨ prio.toNat ≤ old.prio.toNat) then
          ⟨colour, prio, decide (bitsN a0 10 2 = 1), old.objwin⟩
        else old
      else old
    ∃ t : State, exec (.spriteNormal a0 a1 a2 y) s = .next t ∧ t = { s with line := t.line } ∧
      t.line = { s.line with spr := t.line.spr } ∧
      ∀ x : Nat, t.line.sprCol x = if 240 ≤ x then SprCol.empty else
        match objSize (bitsN a0 14 2) (bitsN a1 14 2) with
        | none => s.line.sprCol x
        | some (w, h) => column w h x (s.line.sprCol x)

/-- 45_sprites.md R654, R655, R656, R658 to R661 (decisions D8 to D14): every column after SPRITE_AFFINE or SPRITE_AFFINE_DBL draws one
affine sprite over the sprite line, which has 240 columns (R651). That the rows draw their operand words whatever OBJ_ON holds is
the model's choice (assumption 4), and so is that a raw X of 240 or more is drawn where its box reaches the screen
(assumption 30). -/
def Obligations.SpriteAffineColumns : Prop :=
  ∀ (dbl : Bool) (a0 a1 a2 : Half) (y : Byte) (s : State), bit a0 8 = true → bit a0 9 = dbl → y.toNat < 160 →
    let ys : Int := if 160 ≤ bitsN a0 0 8 then (bitsN a0 0 8 : Int) - 256 else bitsN a0 0 8
    let xs : Int := if 240 ≤ bitsN a1 0 9 then (bitsN a1 0 9 : Int) - 512 else bitsN a1 0 9
    let g := bitsN a1 9 5
    let p := fun j : Nat => (s.readU16 .oam ((2 * (16 * g + j) : Nat) : Int)).toInt
    let bpp8 := bit a0 13
    let prio := BitVec.ofNat 8 (bitsN a2 10 2)
    let column := fun (w h : Int) (x : Nat) (old : SprCol) =>
      let bw := if dbl then 2 * w else w
      let bh := if dbl then 2 * h else h
      let irx := (x : Int) - xs - bw / 2
      let iry := (y.toNat : Int) - ys - bh / 2
      let tx := (p 3 * irx + p 7 * iry) / 256 + w / 2
      let ty := (p 11 * irx + p 15 * iry) / 256 + h / 2
      if (ys ≤ y.toNat ∧ (y.toNat : Int) < ys + bh ∧ xs ≤ x ∧ (x : Int) < xs + bw) ∧
          0 ≤ tx ∧ tx < w ∧ 0 ≤ ty ∧ ty < h then
        let k : Int := if bpp8 then 2 else 1
        let tn : Int := bitsN a2 0 10 + (if bit (s.readU16 .io 0) 6 then (ty / 8 * (w / 8) + tx / 8) * k
          else ty / 8 * 32 + tx / 8 * k)
        let b4 := s.readU8 .vramGba (0x10000 + tn * 32 + ty % 8 * 4 + tx % 8 / 2)
        let idx : Nat := if bpp8 then (s.readU8 .vramGba (0x10000 + tn * 32 + ty % 8 * 8 + tx % 8)).toNat
          else if tx % 8 % 2 = 0 then bitsN b4 0 4 else bitsN b4 4 4
        let colour := rgb555 (s.readU16 .objPltt ((2 * (if bpp8 then idx else bitsN a2 12 4 * 16 + idx) : Nat) : Int))
        if idx = 0 then old
        else if bitsN a0 10 2 = 2 then ⟨old.colour, old.prio, old.semi, true⟩
        else if bitsN a0 10 2 ≠ 3 ∧ (old.prio = 0xFF ∨ prio.toNat ≤ old.prio.toNat) then
          ⟨colour, prio, decide (bitsN a0 10 2 = 1), old.objwin⟩
        else old
      else old
    ∃ t : State, exec (if dbl then .spriteAffineDbl a0 a1 a2 y else .spriteAffine a0 a1 a2 y) s = .next t ∧
      t = { s with line := t.line } ∧ t.line = { s.line with spr := t.line.spr } ∧
      ∀ x : Nat, t.line.sprCol x = if 240 ≤ x then SprCol.empty else
        match objSize (bitsN a0 14 2) (bitsN a1 14 2) with
        | none => s.line.sprCol x
        | some (w, h) => column w h x (s.line.sprCol x)

/-- 45_sprites.md R653 (decisions D8, D9, D13): a hidden sprite draws nothing and sets no object-window bit: SPRITE_HIDDEN and OMODE_HIDDEN
change nothing at all, and a sprite of object mode 3 or of shape 3 leaves every column of the line. -/
def Obligations.HiddenSpritesDrawNothing : Prop :=
  (∀ (a0 a1 a2 : Half) (y : Byte) (s : State), exec (.spriteHidden a0 a1 a2 y) s = .next s) ∧
  (∀ (sx : Byte) (s : State), exec (.omodeHidden sx) s = .next s) ∧
  ∀ (i : Instr) (a0 a1 a2 : Half) (y : Byte) (s : State),
    (i = .spriteNormal a0 a1 a2 y ∨ i = .spriteAffine a0 a1 a2 y ∨ i = .spriteAffineDbl a0 a1 a2 y) →
    (bitsN a0 10 2 = 3 ∨ bitsN a0 14 2 = 3) →
    ∃ t : State, exec i s = .next t ∧ t = { s with line := t.line } ∧ t.line = { s.line with spr := t.line.spr } ∧
      ∀ x : Nat, x < 240 → t.line.sprCol x = s.line.sprCol x

/-- 45_sprites.md R659, R660 (decisions D12, D21, D22): what a candidate does to its column in each object mode, and that every other
column stays. The candidate's colour is its palette entry `c`. -/
def Obligations.ObjectModesAtAColumn : Prop :=
  ∀ (sx prio : Byte) (c : Half) (s : State),
    let old := s.line.sprCol sx.toNat
    let wins := old.prio = 0xFF ∨ prio.toNat ≤ old.prio.toNat
    let outcome := fun (i : Instr) (new : SprCol) =>
      ∃ t : State, exec i s = .next t ∧ t = { s with line := t.line } ∧ t.line = { s.line with spr := t.line.spr } ∧
        ∀ x : Nat, t.line.sprCol x = if x = sx.toNat then new else s.line.sprCol x
    outcome (.omodeNormal sx prio c) (if wins then ⟨rgb555 c, prio, false, old.objwin⟩ else old) ∧
    outcome (.omodeSemi sx prio c) (if wins then ⟨rgb555 c, prio, true, old.objwin⟩ else old) ∧
    outcome (.omodeObjwin sx) ⟨old.colour, old.prio, old.semi, true⟩ ∧
    outcome (.omodeHidden sx) old

/-- 30_encoding.md R314, R315 and 45_sprites.md R655 (sizes by decision D9): the size, box and position each OBJ_SIZE row gives, and that the
reserved shape has no size. -/
def Obligations.ObjectSizes : Prop :=
  ∀ (affine dbl : Bool) (y : Byte) (x : Half) (s : State),
    let k : Int := if affine = true ∧ dbl = true then 2 else 1
    let ys : Int := if 160 ≤ y.toNat then (y.toNat : Int) - 256 else y.toNat
    let xs : Int := if 240 ≤ x.toNat then (x.toNat : Int) - 512 else x.toNat
    let gives := fun (i : Bool → Bool → Byte → Half → Instr) (w h : Int) =>
      exec (i affine dbl y x) s = .next { s with result := .bounds w h (w * k) (h * k) xs ys }
    gives .objSizeSquare8x8 8 8 ∧ gives .objSizeSquare16x16 16 16 ∧ gives .objSizeSquare32x32 32 32 ∧
    gives .objSizeSquare64x64 64 64 ∧ gives .objSizeWide16x8 16 8 ∧ gives .objSizeWide32x8 32 8 ∧
    gives .objSizeWide32x16 32 16 ∧ gives .objSizeWide64x32 64 32 ∧ gives .objSizeTall8x16 8 16 ∧
    gives .objSizeTall8x32 8 32 ∧ gives .objSizeTall16x32 16 32 ∧ gives .objSizeTall32x64 32 64 ∧
    ∀ size : Byte, exec (.objSizeReserved size) s = .next { s with result := .noSize }

/-- 45_sprites.md R661 with R650 to R653 (decisions D8, D13, D15, D52): SPRITE_LINE is the sprite line just created, left so when OBJ_ON
is 0, and else drawn over by the instruction of each OAM entry, 127 down to 0 (the exchange of the loops: assumption 21; an entry at a raw X of 240
or more: assumption 30). -/
def Obligations.SpriteLineRunsTheEntries : Prop :=
  ∀ (y : Byte) (s : State), y.toNat < 160 →
    let start : State := { s with line := { s.line with spr := [] } }
    ∃ t : State, exec (.spriteLine y) s = .next t ∧
      execAll (if bit (s.readU16 .io 0) 12 then (List.range 128).reverse.map (s.spriteInstr y) else []) start = .next t

/-- 45_sprites.md R662 (derived there): of the entries that show a colour at a column, each taken alone, the one of the smallest priority
value, and of those the lowest index, is the one SPRITE_LINE leaves there. -/
def Obligations.SpriteTieBreak : Prop :=
  ∀ (y : Byte) (s : State) (i x : Nat), y.toNat < 160 → i < 128 → x < 240 → bit (s.readU16 .io 0) 12 = true →
    let alone := fun j : Nat =>
      match exec (s.spriteInstr y j) { s with line := { s.line with spr := [] } } with
      | .next t => t.line.sprCol x
      | _ => SprCol.empty
    (alone i).colour ≠ 0 →
    (∀ j : Nat, j < 128 → (alone j).colour ≠ 0 →
      (alone i).prio.toNat < (alone j).prio.toNat ∨ ((alone i).prio = (alone j).prio ∧ i ≤ j)) →
    ∃ t : State, exec (.spriteLine y) s = .next t ∧ (t.line.sprCol x).colour = (alone i).colour ∧
      (t.line.sprCol x).prio = (alone i).prio ∧ (t.line.sprCol x).semi = (alone i).semi

/-! ### Composition of modes 1 and 2 -/

/-- 46_compositor.md R722 (its decision D18): a pixel lies in a window when it is inside the half-open rectangle, and no rectangle that is
inverted or exceeds the screen holds a pixel. -/
def Obligations.WindowMembership : Prop :=
  ∀ (h v x y w hs : Half) (s : State),
    let x1 := bitsN h 8 8
    let x2 := bitsN h 0 8
    let y1 := bitsN v 8 8
    let y2 := bitsN v 0 8
    exec (.windowIn h v x y w hs) s =
      .next { s with result := .inside (decide (x1 ≤ x2 ∧ y1 ≤ y2 ∧ x2 ≤ w.toNat ∧ y2 ≤ hs.toNat ∧
        x1 ≤ x.toNat ∧ x.toNat < x2 ∧ y1 ≤ y.toNat ∧ y.toNat < y2)) }

/-- 46_compositor.md R723 (its decision D17): the enable set of a pixel: all layers when no window is on, else window 0's set inside window
0, window 1's inside window 1, the object window's under its mask, and the outside set elsewhere, in this precedence. -/
def Obligations.WindowPrecedence : Prop :=
  ∀ (x y : Byte) (s : State), x.toNat < 240 → y.toNat < 160 →
    let dispcnt := s.readU16 .io 0
    let isIn := fun h v : Half =>
      bitsN h 8 8 ≤ x.toNat ∧ x.toNat < bitsN h 0 8 ∧ bitsN h 0 8 ≤ 240 ∧
      bitsN v 8 8 ≤ y.toNat ∧ y.toNat < bitsN v 0 8 ∧ bitsN v 0 8 ≤ 160
    let in0 := bit dispcnt 13 = true ∧ isIn (s.readU16 .io 0x40) (s.readU16 .io 0x44)
    let in1 := bit dispcnt 14 = true ∧ isIn (s.readU16 .io 0x42) (s.readU16 .io 0x46)
    let inObj := bit dispcnt 15 = true ∧ (s.line.sprCol x.toNat).objwin = true
    let winin := s.readU16 .io 0x48
    let winout := s.readU16 .io 0x4A
    ∃ en : BitVec 6, exec (.windowEnables x y) s = .next { s with result := .enables en } ∧
      (bitsN dispcnt 13 3 = 0 → en.toNat = 63) ∧
      (in0 → en.toNat = bitsN winin 0 6) ∧
      (¬ in0 → in1 → en.toNat = bitsN winin 8 6) ∧
      (¬ in0 → ¬ in1 → inObj → en.toNat = bitsN winout 8 6) ∧
      (bitsN dispcnt 13 3 ≠ 0 → ¬ in0 → ¬ in1 → ¬ inObj → en.toNat = bitsN winout 0 6)

/-- 46_compositor.md R727, R728, R731 (decisions D20, D21), effects 0 and 1: EFFECT_NONE gives the top colour; EFFECT_ALPHA blends each
channel when the top layer is a first target and the lower layer is a second target, and else gives the top colour. The
alpha of the result is 0xFF. -/
def Obligations.EffectNoneAndAlpha : Prop :=
  ∀ (cnt : Half) (top : Contributor) (bot : Option Contributor) (s : State),
    let eva := min 16 (bitsN (s.readU16 .io 0x52) 0 5)
    let evb := min 16 (bitsN (s.readU16 .io 0x52) 8 5)
    (bitsN cnt 6 2 = 0 →
      exec (.effectNone cnt top bot) s = .next { s with result := .colour (0xFF#8 ++ top.colour.extractLsb' 0 24) }) ∧
    (bitsN cnt 6 2 = 1 → ∃ w : Word, exec (.effectAlpha cnt top bot) s = .next { s with result := .colour w } ∧
      bitsN w 24 8 = 0xFF ∧
      (∀ u : Contributor, bot = some u → bit cnt (layerNum top.layer) = true → bit cnt (8 + layerNum u.layer) = true →
        ∀ k : Nat, k < 3 → bitsN w (8 * k) 8 =
          min 255 ((bitsN top.colour (8 * k) 8 * eva + bitsN u.colour (8 * k) 8 * evb) / 16)) ∧
      (bit cnt (layerNum top.layer) = false ∨ bot = none ∨
          (∃ u : Contributor, bot = some u ∧ bit cnt (8 + layerNum u.layer) = false) →
        bitsN w 0 24 = bitsN top.colour 0 24))

/-- 46_compositor.md R727, R729, R730, R731 (decision D20), effects 2 and 3: EFFECT_BRIGHTEN and EFFECT_DARKEN move each channel of a first
target towards 255 or 0 and leave any other layer's colour. The alpha of the result is 0xFF. -/
def Obligations.EffectBrightenAndDarken : Prop :=
  ∀ (cnt : Half) (top : Contributor) (bot : Option Contributor) (s : State),
    let evy := min 16 (bitsN (s.readU16 .io 0x54) 0 5)
    let first := bit cnt (layerNum top.layer)
    (bitsN cnt 6 2 = 2 → ∃ w : Word, exec (.effectBrighten cnt top bot) s = .next { s with result := .colour w } ∧
      bitsN w 24 8 = 0xFF ∧ ∀ k : Nat, k < 3 →
        let tc := bitsN top.colour (8 * k) 8
        bitsN w (8 * k) 8 = if first then tc + (255 - tc) * evy / 16 else tc) ∧
    (bitsN cnt 6 2 = 3 → ∃ w : Word, exec (.effectDarken cnt top bot) s = .next { s with result := .colour w } ∧
      bitsN w 24 8 = 0xFF ∧ ∀ k : Nat, k < 3 →
        let tc := bitsN top.colour (8 * k) 8
        bitsN w (8 * k) 8 = if first then tc - tc * evy / 16 else tc)

/-- 46_compositor.md R731 (its decision D21): a semi-transparent sprite over a second target is alpha-blended whatever the effect and
the first targets; over any other layer the effect of BLDCNT decides, as the EFFECT row of its value does. These rows run with
R731's `eff_en` at 1: the spec gives them no operand list, and this is the model's choice (assumption 4). -/
def Obligations.SemiSpriteForcesAlpha : Prop :=
  ∀ (t : Word) (bot : Contributor) (s : State),
    let cnt := s.readU16 .io 0x50
    let eva := min 16 (bitsN (s.readU16 .io 0x52) 0 5)
    let evb := min 16 (bitsN (s.readU16 .io 0x52) 8 5)
    ∃ w : Word, exec (.semiForcedAlpha t bot) s = .next { s with result := .colour w } ∧
      bitsN w 24 8 = 0xFF ∧
      (bit cnt (8 + layerNum bot.layer) = true → ∀ k : Nat, k < 3 → bitsN w (8 * k) 8 =
        min 255 ((bitsN t (8 * k) 8 * eva + bitsN bot.colour (8 * k) 8 * evb) / 16)) ∧
      (bit cnt (8 + layerNum bot.layer) = false →
        exec (effectRow cnt ⟨.obj, t, true⟩ (some bot)) s = .next { s with result := .colour w })

/-- 46_compositor.md R725, R726, R731, R732, R740 (layer numbers by decision D51): COMPOSE_LINE writes one word per column: the colour math
of the two front contributors. The contributors are the enabled, non-transparent sprite and backgrounds of priority 0 to 3 and the
backdrop; a smaller priority is in front, within one priority the sprite, then the lower background; the backdrop is last. Every
other framebuffer word stays. -/
def Obligations.ComposeLineWritesFrontTwo : Prop :=
  ∀ (y : Byte) (s : State), y.toNat < 160 →
    ∃ t : State, exec (.composeLine y) s = .next t ∧ t = { s with fb := t.fb } ∧
      (∀ i : Nat, (i < y.toNat * 240 ∨ y.toNat * 240 + 240 ≤ i) → t.fbWord i = s.fbWord i) ∧
      ∀ x : Nat, x < 240 →
        let spr := s.line.sprCol x
        let bg := fun b : Nat => s.line.bgCol b x
        let inFront := fun a b : Contributor =>
          match a.layer, b.layer with
          | .bd, _ => False
          | _, .bd => True
          | .obj, .obj => False
          | .obj, l => spr.prio.toNat ≤ (bg (layerNum l)).prio.toNat
          | l, .obj => (bg (layerNum l)).prio.toNat < spr.prio.toNat
          | l, m => (bg (layerNum l)).prio.toNat < (bg (layerNum m)).prio.toNat ∨
              ((bg (layerNum l)).prio = (bg (layerNum m)).prio ∧ layerNum l < layerNum m)
        ∃ (en : BitVec 6) (cs : List Contributor),
          exec (.windowEnables (BitVec.ofNat 8 x) y) s = .next { s with result := .enables en } ∧
          cs.Pairwise inFront ∧
          (∀ c : Contributor, c ∈ cs ↔ c = ⟨.bd, rgb555 (s.readU16 .bgPltt 0), false⟩ ∨
            (c = ⟨.obj, spr.colour, spr.semi⟩ ∧ bit en 4 = true ∧ spr.colour ≠ 0 ∧ spr.prio.toNat ≤ 3) ∨
            ∃ b : Nat, b < 4 ∧ c = ⟨bgLayer b, (bg b).colour, false⟩ ∧ bit en b = true ∧ (bg b).colour ≠ 0 ∧
              (bg b).prio.toNat ≤ 3) ∧
          ∃ (top : Contributor) (rest : List Contributor), cs = top :: rest ∧
            (bit en 5 = false → t.fbWord (y.toNat * 240 + x) = 0xFF#8 ++ top.colour.extractLsb' 0 24) ∧
            (bit en 5 = true →
              exec (match top.layer, top.semi, rest.head? with
                | .obj, true, some bot => .semiForcedAlpha top.colour bot
                | _, _, bot => effectRow (s.readU16 .io 0x50) top bot) s =
                .next { s with result := .colour (t.fbWord (y.toNat * 240 + x)) })

/-- 46_compositor.md R742 (derived there): at a column where every background and the sprite are transparent, COMPOSE_LINE writes the
backdrop, brightened or darkened when the effect is enabled there, the backdrop is a first target and the effect is 2 or 3; its alpha is 0xFF. -/
def Obligations.TransparentColumnShowsBackdrop : Prop :=
  ∀ (x y : Byte) (s : State), x.toNat < 240 → y.toNat < 160 →
    (s.line.sprCol x.toNat).colour = 0 → (∀ b : Nat, b < 4 → (s.line.bgCol b x.toNat).colour = 0) →
    let bd := rgb555 (s.readU16 .bgPltt 0)
    let cnt := s.readU16 .io 0x50
    let evy := min 16 (bitsN (s.readU16 .io 0x54) 0 5)
    ∃ (t : State) (en : BitVec 6), exec (.composeLine y) s = .next t ∧
      exec (.windowEnables x y) s = .next { s with result := .enables en } ∧
      bitsN (t.fbWord (y.toNat * 240 + x.toNat)) 24 8 = 0xFF ∧
      ∀ k : Nat, k < 3 →
        let c := bitsN bd (8 * k) 8
        bitsN (t.fbWord (y.toNat * 240 + x.toNat)) (8 * k) 8 =
          if bit en 5 = true ∧ bit cnt 5 = true ∧ bitsN cnt 6 2 = 2 then c + (255 - c) * evy / 16
          else if bit en 5 = true ∧ bit cnt 5 = true ∧ bitsN cnt 6 2 = 3 then c - c * evy / 16
          else c

/-! ### Frames -/

/-- 47_dispatch.md R800 with 30_encoding.md R317: RENDER_FRAME runs the pipeline of `Registers.mode`, and changes nothing for any other
value. That the row RENDER_FRAME.NOP changes nothing, whatever its word and whatever `Registers.mode` holds, and that the other
rows run their own pipeline, is the model's choice (assumption 27). -/
def Obligations.RenderFrameDispatch : Prop :=
  (∀ s : State, ∃ t : State, exec .renderFrame s = .next t ∧
    (s.regs.mode.toNat = 0 → exec .renderFrameMode0 s = .next t) ∧
    (s.regs.mode.toNat = 1 → exec .renderFrameGbaText s = .next t) ∧
    (s.regs.mode.toNat = 2 → exec .renderFrameGbaMixed s = .next t) ∧
    (s.regs.mode.toNat = 7 → exec .renderFrameDmg s = .next t) ∧
    (s.regs.mode.toNat ∉ [0, 1, 2, 7] → t = s)) ∧
  ∀ (m : Word) (s : State), exec (.renderFrameNop m) s = .next s

/-- 47_dispatch.md R804 (its decision D23): the forced-blank rows set every word of the framebuffer array to 0xFFFFFFFF and change nothing
else. FORCED_BLANK_MODE0, whose selector is a field of the record and no word, does so when that field is set, and else
changes nothing (assumption 4). -/
def Obligations.ForcedBlankFillsAll : Prop :=
  ∀ s : State, ∃ t : State,
    t = { s with fb := t.fb } ∧ (∀ i : Nat, i < 460800 → t.fbWord i = 0xFFFFFFFF) ∧
    (∀ i : Nat, 460800 ≤ i → t.fbWord i = s.fbWord i) ∧
    exec .forcedBlankFill s = .next t ∧
    (∀ w : Half, bit w 7 = true → exec (.forcedBlankGba w) s = .next t) ∧
    (∀ w : Byte, bit w 7 = false → exec (.forcedBlankDmg w) s = .next t) ∧
    (s.m0.g.forcedBlank = true → exec .forcedBlankMode0 s = .next t) ∧
    (s.m0.g.forcedBlank = false → exec .forcedBlankMode0 s = .next s)

/-- 47_dispatch.md R803 and 60_exceptions.md R1003: under its mode's forced-blank condition a frame is the forced-blank fill. Which
states meet the condition of mode 0, a field of its record, depends on the OPEN layout (assumption 7). -/
def Obligations.ForcedBlankFrames : Prop :=
  ∀ s : State, ∃ t : State, exec .forcedBlankFill s = .next t ∧
    (bit (s.readU16 .io 0) 7 = true → exec .renderFrameGbaText s = .next t ∧ exec .renderFrameGbaMixed s = .next t) ∧
    (bit (s.readU8 .vramDmg 0x20A0) 7 = false → exec .renderFrameDmg s = .next t) ∧
    (s.m0.g.forcedBlank = true → exec .renderFrameMode0 s = .next t)

/-- 47_dispatch.md R805 and R808: without forced blank, a frame of mode 1 writes at (x, y) the word the operations of line `y` write there: the
text backgrounds that DISPCNT[8+b] enables, then the sprites, then the composition, from line buffers just created. Every word past the 240x160
rectangle stays, and nothing but the framebuffer and the line buffers changes. -/
def Obligations.GbaTextFrame : Prop :=
  ∀ s : State, bit (s.readU16 .io 0) 7 = false →
    ∃ t : State, exec .renderFrameGbaText s = .next t ∧ t = { s with fb := t.fb, line := t.line } ∧
      (∀ i : Nat, 38400 ≤ i → t.fbWord i = s.fbWord i) ∧
      ∀ y : Nat, y < 160 → ∃ u : State, execAll (s.gbaTextLine y) s.clearLine = .next u ∧
        ∀ x : Nat, x < 240 → t.fbWord (y * 240 + x) = u.fbWord (y * 240 + x)

/-- 47_dispatch.md R806 (its decision D27) and R808: the same for a frame of mode 2: BG0 and BG1 text (DISPCNT[8],
DISPCNT[9]), BG2 affine (DISPCNT[10]), never BG3. -/
def Obligations.GbaMixedFrame : Prop :=
  ∀ s : State, bit (s.readU16 .io 0) 7 = false →
    ∃ t : State, exec .renderFrameGbaMixed s = .next t ∧ t = { s with fb := t.fb, line := t.line } ∧
      (∀ i : Nat, 38400 ≤ i → t.fbWord i = s.fbWord i) ∧
      ∀ y : Nat, y < 160 → ∃ u : State, execAll (s.gbaMixedLine y) s.clearLine = .next u ∧
        ∀ x : Nat, x < 240 → t.fbWord (y * 240 + x) = u.fbWord (y * 240 + x)

/-! ### Mode 7 -/

/-- 48_dmg.md R851 (its decision D29) and 47_dispatch.md R808: with LCDC[7] = 1 a frame of mode 7 writes at (x, y) what DMG_PIXEL gives there
under the sprites selected for the line; every word past the 160x144 rectangle stays. -/
def Obligations.DmgFrame : Prop :=
  ∀ s : State, bit (s.readU8 .vramDmg 0x20A0) 7 = true →
    ∃ t : State, exec .renderFrameDmg s = .next t ∧ t = { s with fb := t.fb, line := t.line } ∧
      (∀ i : Nat, 23040 ≤ i → t.fbWord i = s.fbWord i) ∧
      ∀ x y : Nat, x < 160 → y < 144 →
        exec (.dmgPixel (BitVec.ofNat 8 x) (BitVec.ofNat 8 y) ((selectSprites s y).map (BitVec.ofNat 8))) s =
          .next { s with result := .colour (t.fbWord (y * 160 + x)) }

/-- 48_dmg.md R856 (its decision D32): the sprites selected for a line: none when LCDC[1] = 0, else the first ten entries in table order
that cover it, ordered by their X and then by their index. -/
def Obligations.DmgSpriteSelection : Prop :=
  ∀ (s : State) (y : Nat), y < 144 →
    let lcdc := s.readU8 .vramDmg 0x20A0
    let hgt : Int := if bit lcdc 2 then 16 else 8
    let sy := fun i : Nat => ((s.readU8 .vramDmg (0x2000 + 4 * i)).toNat : Int) - 16
    let sxs := fun i : Nat => ((s.readU8 .vramDmg (0x2001 + 4 * i)).toNat : Int) - 8
    let firstTen := ((List.range 40).filter fun i => decide (sy i ≤ y ∧ (y : Int) < sy i + hgt)).take 10
    (bit lcdc 1 = false → selectSprites s y = []) ∧
    (bit lcdc 1 = true → (selectSprites s y).Perm firstTen ∧
      (selectSprites s y).Pairwise fun i j => sxs i < sxs j ∨ (sxs i = sxs j ∧ i < j))

/-- 48_dmg.md R857 (its decision D32), with the line cover of R856: the colour index of a sprite entry at a pixel, none outside its
rectangle. -/
def Obligations.DmgSpriteEntryIndex : Prop :=
  ∀ (b0 b1 b2 b3 x y : Byte) (s : State),
    let sy : Int := (b0.toNat : Int) - 16
    let sxs : Int := (b1.toNat : Int) - 8
    let hgt : Int := if bit (s.readU8 .vramDmg 0x20A0) 2 then 16 else 8
    let row : Int := if bit b3 6 then hgt - 1 - ((y.toNat : Int) - sy) else (y.toNat : Int) - sy
    let col : Int := if bit b3 5 then 7 - ((x.toNat : Int) - sxs) else (x.toNat : Int) - sxs
    let tile : Int := if bit (s.readU8 .vramDmg 0x20A0) 2 then (b2.toNat / 2 * 2 : Nat) + row / 8 else b2.toNat
    let lo := s.readU8 .vramDmg (tile * 16 + 2 * (row % 8))
    let hi := s.readU8 .vramDmg (tile * 16 + 2 * (row % 8) + 1)
    let k := (7 - col).toNat
    let index := if sy ≤ y.toNat ∧ (y.toNat : Int) < sy + hgt ∧ sxs ≤ x.toNat ∧ (x.toNat : Int) < sxs + 8 then
      some (BitVec.ofNat 8 (2 * bitsN hi k 1 + bitsN lo k 1)) else none
    exec (.dmgSpriteEntry b0 b1 b2 b3 x y) s = .next { s with result := .indexIfCovered index }

/-- 48_dmg.md R859 with R854 and R858 (decisions D32, D33): DMG_PIXEL shows the first sprite of the list with a non-zero index at the pixel,
unless it is behind a non-zero background index; else the background through BGP. -/
def Obligations.DmgPixelColour : Prop :=
  ∀ (x y : Byte) (sel : List Byte) (s : State), x.toNat < 160 → y.toNat < 144 →
    let reg := fun o : Int => s.readU8 .vramDmg o
    let lcdc := reg 0x20A0
    let window := bit lcdc 5 = true ∧ (reg 0x20A6).toNat ≤ y.toNat ∧ (reg 0x20A7).toNat ≤ x.toNat + 7
    let mx : Nat := if window then x.toNat + 7 - (reg 0x20A7).toNat else (x.toNat + (reg 0x20A2).toNat) % 256
    let my : Nat := if window then y.toNat - (reg 0x20A6).toNat else (y.toNat + (reg 0x20A1).toNat) % 256
    let map : Nat := if (if window then bit lcdc 6 else bit lcdc 3) then 0x1C00 else 0x1800
    let tile := reg ((map + my / 8 * 32 + mx / 8 : Nat) : Int)
    let ta : Int := if bit lcdc 4 then (tile.toNat : Int) * 16 else 0x1000 + tile.toInt * 16
    let plane := fun j : Nat => bitsN (reg (ta + (2 * (my % 8) + j : Nat))) (7 - mx % 8) 1
    let bi : Nat := if bit lcdc 0 then 2 * plane 1 + plane 0 else 0
    let entry := fun i : Byte => Instr.dmgSpriteEntry (reg (0x2000 + 4 * i.toNat)) (reg (0x2001 + 4 * i.toNat))
      (reg (0x2002 + 4 * i.toNat)) (reg (0x2003 + 4 * i.toNat)) x y
    let clear := fun i : Byte => exec (entry i) s = .next { s with result := .indexIfCovered none } ∨
      exec (entry i) s = .next { s with result := .indexIfCovered (some 0) }
    let background := dmgColour (reg 0x20A3) bi
    ((∀ i : Byte, i ∈ sel → clear i) → exec (.dmgPixel x y sel) s = .next { s with result := .colour background }) ∧
    ∀ (before after : List Byte) (i si : Byte), sel = before ++ i :: after → (∀ j : Byte, j ∈ before → clear j) →
      si ≠ 0 → exec (entry i) s = .next { s with result := .indexIfCovered (some si) } →
      let flags := reg (0x2003 + 4 * i.toNat)
      let colour := if bit flags 7 = true ∧ bi ≠ 0 then background
        else dmgColour (if bit flags 4 then reg 0x20A5 else reg 0x20A4) si.toNat
      exec (.dmgPixel x y sel) s = .next { s with result := .colour colour }

/-- 48_dmg.md R853, R855 with 41_pixel_decoders.md R450 (decisions D6, D30, D32): the tile address of each tile-data row and the fields of a
sprite under each size row. -/
def Obligations.DmgTileAndObjectRows : Prop :=
  (∀ (w t : Byte) (s : State),
    let signed : Int := if t.toNat < 128 then t.toNat else (t.toNat : Int) - 256
    exec (.dmgTileUnsigned w t) s = .next { s with result := .address (t.toNat * 16) } ∧
    exec (.dmgTileSigned w t) s = .next { s with result := .address (0x1000 + signed * 16) }) ∧
  ∀ (w i : Byte) (s : State),
    let reg := fun o : Nat => s.readU8 .vramDmg (o + 4 * i.toNat)
    let sy : Int := ((reg 0x2000).toNat : Int) - 16
    let sxs : Int := ((reg 0x2001).toNat : Int) - 8
    exec (.dmgObj8 w i) s = .next { s with result := .dmgObj 8 sy sxs (reg 0x2002) (reg 0x2003) } ∧
    exec (.dmgObj16 w i) s = .next { s with result := .dmgObj 16 sy sxs (reg 0x2002) (reg 0x2003) }

/-! ### Mode 0 -/

/-- 49_mode0.md R902, R903 (decisions D24, D37) and 47_dispatch.md R808: a frame of mode 0 without forced blank is a no-op when `frame_width` is
outside 1 to 1280; else it writes at (x, y) the word the operations of line `y` write there, and every word past the rectangle
stays. -/
def Obligations.Mode0Frame : Prop :=
  ∀ s : State, s.m0.g.forcedBlank = false →
    let w := s.regs.frameWidth.toNat
    (w < 1 ∨ 1280 < w → exec .renderFrameMode0 s = .next s) ∧
    (1 ≤ w → w ≤ 1280 → ∃ t : State, exec .renderFrameMode0 s = .next t ∧ t = { s with fb := t.fb, line := t.line } ∧
      (∀ i : Nat, 360 * w ≤ i → t.fbWord i = s.fbWord i) ∧
      ∀ y : Nat, y < 360 → ∃ u : State, execAll (s.mode0Line y) s.clearLine = .next u ∧
        ∀ x : Nat, x < w → t.fbWord (y * w + x) = u.fbWord (y * w + x))

/-- 49_mode0.md R904 to R910 (decisions D36, D38, D39): every column of the line M0_BG_TEXT and M0_BG_AFFINE draw, on the typed view of the
record. The line has `frame_width` columns, none when that is outside 1 to 1280 (assumption 20); an axis of no tiles is
transparent (assumption 18), and the layer priority is the record's, cut to 8 bits (assumption 19). Each row runs its path whatever `BG[b].affine` and `BG[b].enabled` hold: the model's choice
(assumptions 4, 11). -/
def Obligations.M0BgLineColumns : Prop :=
  ∀ (affine : Bool) (b : Byte) (y : Half) (s : State), b.toNat < 4 → y.toNat < 360 →
    let fw := s.regs.frameWidth.toNat
    let W := if 1 ≤ fw ∧ fw ≤ 1280 then fw else 0
    let bg := s.m0.bg b.toNat
    let ls := s.m0.lineScroll b.toNat y.toNat
    let la := s.m0.lineAffine b.toNat y.toNat
    let start : Int × Int := if la.valid then (la.tx, la.ty)
      else (bg.ox + bg.matrix.pb * y.toNat, bg.oy + bg.matrix.pd * y.toNat)
    let cursor := fun x : Nat => (fun p : Int × Int => (p.1 + bg.matrix.pa, p.2 + bg.matrix.pc))^[x] start
    let uv := fun x : Nat => if affine then ((cursor x).1 / 256, (cursor x).2 / 256)
      else ((x : Int) + (bg.scrollX + ls.1), (y.toNat : Int) + (bg.scrollY + ls.2))
    let Wp : Int := bg.widthTiles * 8
    let Hp : Int := bg.heightTiles * 8
    let column := fun x : Nat =>
      let u := if bg.wrapX then (uv x).1 % Wp else (uv x).1
      let v := if bg.wrapY then (uv x).2 % Hp else (uv x).2
      let k := (v / 8 * bg.widthTiles + u / 8).toNat
      let e := s.m0.map b.toNat k
      let px := if bit e 27 then 7 - u % 8 else u % 8
      let py := if bit e 28 then 7 - v % 8 else v % 8
      let ta : Int := (bitsN e 0 16 * (if bg.bpp8 then 64 else 32) : Nat)
      let tile := fun o : Int => if 0 ≤ o ∧ o < 0x200000 then s.m0.tile o.toNat else 0
      let b4 := tile (ta + py * 4 + px / 2)
      let idx : Nat := if bg.bpp8 then (tile (ta + py * 8 + px)).toNat
        else if px % 2 = 0 then bitsN b4 0 4 else bitsN b4 4 4
      let pal := bitsN e 16 8
      let c := s.m0.pal (pal / 16) (if bg.bpp8 then idx else pal % 16 * 16 + idx)
      if 0 ≤ u ∧ u < Wp ∧ 0 ≤ v ∧ v < Hp ∧ k < s.m0.tilemapEntries ∧ idx ≠ 0 ∧ pal / 16 < 6 then
        BgCol.mk (rgba c.1 c.2.1 c.2.2) bg.layerPriority (BitVec.ofNat 3 (bitsN e 24 3))
      else BgCol.transparent
    ∃ t : State, exec (if affine then .m0BgAffine b y else .m0BgText b y) s = .next t ∧
      t = { s with line := t.line } ∧ t.line.spr = s.line.spr ∧
      (∀ x : Nat, t.line.bgCol b.toNat x = if x < W then column x else BgCol.transparent) ∧
      ∀ c x : Nat, c < 4 → c ≠ b.toNat → t.line.bgCol c x = s.line.bgCol c x

/-- 49_mode0.md R911 (its decision D41): the sprite line M0_SPRITE_LINE leaves: at each column the object-window bit is set when some enabled
object-window record has a non-transparent texel there, and the colour is that of the record with a visible texel of the smallest priority, of
those the lowest index; a column without one is empty. A priority value of 0xFF or more never beats a smaller one
(assumption 19); a line of an illegal `frame_width` has no column (assumption 20). Which states have a record that paints depends
on the OPEN layout (assumption 7). -/
def Obligations.M0SpriteLineColumns : Prop :=
  ∀ (y : Half) (s : State), y.toNat < 360 →
    let fw := s.regs.frameWidth.toNat
    let W := if 1 ≤ fw ∧ fw ≤ 1280 then fw else 0
    let rec' := fun i : Nat => s.m0.spr i
    let w := fun i : Nat => ((rec' i).w8 * 8 : Int)
    let h := fun i : Nat => ((rec' i).h8 * 8 : Int)
    let scale := fun i : Nat => if (rec' i).affine = true ∧ (rec' i).doubleSize = true then (2 : Int) else 1
    let cx := fun i x : Nat => (x : Int) - (rec' i).x
    let iy := fun i : Nat => (y.toNat : Int) - (rec' i).y
    let m := fun i : Nat => s.m0.saff (rec' i).affineIndex
    let irx := fun i x : Nat => cx i x - w i * scale i / 2
    let iry := fun i : Nat => iy i - h i * scale i / 2
    let tx := fun i x : Nat => if (rec' i).affine then ((m i).pa * irx i x + (m i).pb * iry i) / 256 + w i / 2
      else if (rec' i).hflip then w i - 1 - cx i x else cx i x
    let ty := fun i x : Nat => if (rec' i).affine then ((m i).pc * irx i x + (m i).pd * iry i) / 256 + h i / 2
      else if (rec' i).vflip then h i - 1 - iy i else iy i
    let tile := fun o : Int => if 0 ≤ o ∧ o < 0x200000 then s.m0.tile o.toNat else 0
    let ta := fun i x : Nat => ((rec' i).tile + (ty i x / 8 * (rec' i).w8 + tx i x / 8) *
      (if (rec' i).bpp8 then 2 else 1)) * (32 : Int)
    let idx := fun i x : Nat => if (rec' i).bpp8 then (tile (ta i x + ty i x % 8 * 8 + tx i x % 8)).toNat
      else
        let b4 := tile (ta i x + ty i x % 8 * 4 + tx i x % 8 / 2)
        if tx i x % 8 % 2 = 0 then bitsN b4 0 4 else bitsN b4 4 4
    let shows := fun i x : Nat => (rec' i).enabled = true ∧ 0 < w i ∧ 0 < h i ∧
      ((rec' i).affine = true → (rec' i).affineIndex < 64) ∧ 0 ≤ iy i ∧ iy i < h i * scale i ∧
      0 ≤ cx i x ∧ cx i x < w i * scale i ∧ 0 ≤ tx i x ∧ tx i x < w i ∧ 0 ≤ ty i x ∧ ty i x < h i ∧ idx i x ≠ 0
    let paints := fun i x : Nat => i < 512 ∧ shows i x ∧ (rec' i).objwin = false ∧ (rec' i).palette / 16 < 6
    let colour := fun i x : Nat =>
      let c := s.m0.pal ((rec' i).palette / 16)
        (if (rec' i).bpp8 then idx i x else (rec' i).palette % 16 * 16 + idx i x)
      rgba c.1 c.2.1 c.2.2
    let prio := fun i : Nat => min (rec' i).priority 255
    ∃ t : State, exec (.m0SpriteLine y) s = .next t ∧ t = { s with line := t.line } ∧
      t.line = { s.line with spr := t.line.spr } ∧
      (∀ x : Nat, (s.m0.g.objOn = false ∨ W ≤ x) → t.line.sprCol x = SprCol.empty) ∧
      ∀ x : Nat, s.m0.g.objOn = true → x < W →
        ((t.line.sprCol x).objwin = true ↔ ∃ i : Nat, i < 512 ∧ shows i x ∧ (rec' i).objwin = true) ∧
        ((∀ i : Nat, ¬ paints i x) → (t.line.sprCol x).colour = 0 ∧ (t.line.sprCol x).prio = 0xFF ∧
          (t.line.sprCol x).semi = false) ∧
        ∀ i : Nat, paints i x → (∀ j : Nat, paints j x → prio i < prio j ∨ (prio i = prio j ∧ i ≤ j)) →
          (t.line.sprCol x).colour = colour i x ∧ (t.line.sprCol x).prio.toNat = prio i ∧
          (t.line.sprCol x).semi = (rec' i).semi

/-- 49_mode0.md R912, R913, R914 (decisions D36, D40): M0_COMPOSE_LINE writes one word per column: the colour math of 46_compositor.md R731 of
the two front contributors, ordered by `(layer_priority, tile_priority, bg_index)`, the sprite of priority `p` in front of every
background of layer priority `p` or more and behind the others, the backdrop last. Every other framebuffer word stays. A line of an illegal
`frame_width` has no column (assumption 20). -/
def Obligations.M0ComposeLineWritesFrontTwo : Prop :=
  ∀ (y : Half) (s : State), y.toNat < 360 →
    let fw := s.regs.frameWidth.toNat
    let W := if 1 ≤ fw ∧ fw ≤ 1280 then fw else 0
    let g := s.m0.g
    let bl : Blend := ⟨g.firstTarget, g.secondTarget, g.effect, min 16 g.eva, min 16 g.evb, min 16 g.evy⟩
    let p0 := s.m0.pal 0 0
    ∃ t : State, exec (.m0ComposeLine y) s = .next t ∧ t = { s with fb := t.fb } ∧
      (∀ i : Nat, (i < y.toNat * W ∨ y.toNat * W + W ≤ i) → t.fbWord i = s.fbWord i) ∧
      ∀ x : Nat, x < W →
        let spr := s.line.sprCol x
        let bg := fun b : Nat => s.line.bgCol b x
        let isIn := fun r : M0Window => r.x1 ≤ x ∧ (x : Int) < r.x2 ∧ r.x2 ≤ W ∧ r.y1 ≤ y.toNat ∧ (y.toNat : Int) < r.y2 ∧
          r.y2 ≤ 360
        let en := if g.win0On = false ∧ g.win1On = false ∧ g.objwinOn = false then 0b111111#6
          else if g.win0On = true ∧ isIn g.win0 then g.winin0
          else if g.win1On = true ∧ isIn g.win1 then g.winin1
          else if g.objwinOn = true ∧ spr.objwin = true then g.winobj
          else g.winout
        let inFront := fun a b : Contributor =>
          match a.layer, b.layer with
          | .bd, _ => False
          | _, .bd => True
          | .obj, .obj => False
          | .obj, l => spr.prio.toNat ≤ (bg (layerNum l)).prio.toNat
          | l, .obj => (bg (layerNum l)).prio.toNat < spr.prio.toNat
          | l, m => (bg (layerNum l)).prio.toNat < (bg (layerNum m)).prio.toNat ∨
              ((bg (layerNum l)).prio = (bg (layerNum m)).prio ∧
                ((bg (layerNum l)).tprio.toNat < (bg (layerNum m)).tprio.toNat ∨
                  ((bg (layerNum l)).tprio = (bg (layerNum m)).tprio ∧ layerNum l < layerNum m)))
        ∃ cs : List Contributor, cs.Pairwise inFront ∧
          (∀ c : Contributor, c ∈ cs ↔ c = ⟨.bd, rgba p0.1 p0.2.1 p0.2.2, false⟩ ∨
            (c = ⟨.obj, spr.colour, spr.semi⟩ ∧ bit en 4 = true ∧ spr.colour ≠ 0) ∨
            ∃ b : Nat, b < 4 ∧ c = ⟨bgLayer b, (bg b).colour, false⟩ ∧ bit en b = true ∧ (bg b).colour ≠ 0) ∧
          ∃ (top : Contributor) (rest : List Contributor), cs = top :: rest ∧
            t.fbWord (y.toNat * W + x) = colourMath bl top rest.head? (bit en 5)

/-! ### What every step keeps -/

/-- At reset every region and line buffer is canonical and inside its bounds, and no word held is a colour that is not opaque. This rests
on 10_state.md R140, whose zeros are the spec's own choice D2 (assumption 9), and on what the model's own fields hold at reset: line
buffers just created (assumption 10) and no returned value (assumption 5). -/
def Obligations.ResetKeepsInvariants : Prop := State.reset.canonical ∧ State.reset.coloursOpaque

/-- Every step keeps the canonical form and the bounds of 20_memory.md R208 of every region and line buffer, from every state that has
them: no operation writes outside a region. -/
def Obligations.StepKeepsCanonical : Prop :=
  ∀ s t : State, s.canonical → step s = .next t → t.canonical

/-- 30_encoding.md R307, 46_compositor.md R721: every pixel emitted is opaque. Every step keeps each line-buffer colour and returned
colour clear or opaque. A framebuffer word a step changes is opaque after it, unless the step is the host's own write to the
framebuffer (60_exceptions.md R1008; assumption 16); so every other step keeps the framebuffer clear or opaque too. -/
def Obligations.StepKeepsColoursOpaque : Prop :=
  ∀ s t : State, step s = .next t →
    (s.linesOpaque → t.linesOpaque) ∧
    (∀ i : Nat, t.fbWord i ≠ s.fbWord i → (t.fbWord i).extractLsb' 24 8 = 0xFF ∨ s.hostWritesFb) ∧
    (¬ s.hostWritesFb → s.coloursOpaque → t.coloursOpaque)

/-- 20_memory.md R204, 10_state.md R107, 60_exceptions.md R1008: only the host's writes change a region other than the framebuffer or
`Registers`; of the core's operations only `render_frame` and the rows that are parts of it change the framebuffer (R107), and the host
by its own writes to it (R1008; that HOST_WRITE is their means is DEDUCED, assumption 16). The command port, which no operation changes,
is the model's choice (assumption 1). -/
def Obligations.OnlyTheHostWritesInputs : Prop :=
  ∀ (i : Instr) (s t : State), exec i s = .next t →
    ((∀ op : HostOp, i = .hostWrite op → HostOp.writesFb op = true) → s.sameInputs t) ∧
    (match i with
      | .composeLine _ | .m0ComposeLine _ | .renderFrame | .renderFrameMode0 | .renderFrameGbaText | .renderFrameGbaMixed
      | .renderFrameDmg | .forcedBlankGba _ | .forcedBlankFill | .forcedBlankDmg _ | .forcedBlankMode0 => True
      | .hostWrite op => HostOp.writesFb op = true ∨ t.fb = s.fb
      | _ => t.fb = s.fb) ∧
    t.port = s.port

/-- 10_state.md R102, R103, R104, R111, R117, R120 and 44_affine_bg.md R600: bytes without a function in a mode have no influence on
its frame: in modes 1 and 2 VRAM at or past 0x18000 and the I/O offsets 0x02..0x07, 0x30..0x3F, 0x4C..0x4F and 0x56 on; in mode 7 VRAM
at or past 0x20A8, the I/O region, the palettes and OAM; in mode 0 everything but VRAM. Nor do the line buffers, the returned
value or the pending commands (70_reset_and_hazards.md R1105). -/
def Obligations.FrameIgnoresWhatItsModeDoesNotRead : Prop :=
  ∀ s t : State, t.regs = s.regs → (∀ i : Nat, t.fbWord i = s.fbWord i) →
    ((s.regs.mode.toNat = 1 ∨ s.regs.mode.toNat = 2) →
      (∀ o : Nat, o < 0x18000 → t.regionByte .vram o = s.regionByte .vram o) ∧
      (∀ o : Nat, o < 0x56 → ¬ (0x02 ≤ o ∧ o ≤ 0x07) → ¬ (0x30 ≤ o ∧ o ≤ 0x3F) → ¬ (0x4C ≤ o ∧ o ≤ 0x4F) →
        t.regionByte .io o = s.regionByte .io o) ∧
      (∀ o : Nat, t.regionByte .bgPltt o = s.regionByte .bgPltt o) ∧
      (∀ o : Nat, t.regionByte .objPltt o = s.regionByte .objPltt o) ∧
      (∀ o : Nat, t.regionByte .oam o = s.regionByte .oam o)) →
    (s.regs.mode.toNat = 7 → ∀ o : Nat, o < 0x20A8 → t.regionByte .vram o = s.regionByte .vram o) →
    (s.regs.mode.toNat = 0 → ∀ o : Nat, t.regionByte .vram o = s.regionByte .vram o) →
    ∃ s' t' : State, exec .renderFrame s = .next s' ∧ exec .renderFrame t = .next t' ∧
      ∀ i : Nat, t'.fbWord i = s'.fbWord i
end

