-- ==== Sys2Proof/Laws/Memory.lean ====
section
/-! SUPPORT. Laws of sparse arrays: what a read gives after a write, that every operation keeps the canonical form and the
bound, and that a canonical array is determined by what it reads. -/

namespace Sys2Proof.Machine

open Sys2Proof

variable {α : Type}

@[simp] theorem Memory.read_nil (d : α) (a : Nat) : Memory.read d [] a = d := rfl

theorem Memory.read_cons (d : α) (k : Nat) (v : α) (m : Memory α) (a : Nat) :
    Memory.read d ((k, v) :: m) a = if a = k then v else Memory.read d m a := by
  unfold Memory.read
  rw [List.lookup_cons]
  by_cases h : a = k
  · simp [h]
  · simp [h, beq_false_of_ne h]

/-- An array whose entries are all elsewhere reads as unlisted. -/
theorem Memory.read_of_not_mem (d : α) (m : Memory α) (a : Nat) (h : ∀ c ∈ m, c.1 ≠ a) :
    Memory.read d m a = d := by
  induction m with
  | nil => rfl
  | cons c m ih =>
    obtain ⟨k, v⟩ := c
    rw [Memory.read_cons, if_neg (fun e => h (k, v) (by simp) e.symm)]
    exact ih fun c hc => h c (by simp [hc])

/-- Entries that are all elsewhere do not matter. -/
theorem Memory.read_append_left (d : α) (m n : Memory α) (a : Nat) (h : ∀ c ∈ m, c.1 ≠ a) :
    Memory.read d (m ++ n) a = Memory.read d n a := by
  induction m with
  | nil => rfl
  | cons c m ih =>
    obtain ⟨k, v⟩ := c
    rw [List.cons_append, Memory.read_cons, if_neg (fun e => h (k, v) (by simp) e.symm)]
    exact ih fun c hc => h c (by simp [hc])

theorem Memory.read_append_right (d : α) (m n : Memory α) (a : Nat) (h : ∀ c ∈ n, c.1 ≠ a) :
    Memory.read d (m ++ n) a = Memory.read d m a := by
  induction m with
  | nil => exact Memory.read_of_not_mem d n a h
  | cons c m ih =>
    obtain ⟨k, v⟩ := c
    rw [List.cons_append, Memory.read_cons, Memory.read_cons, ih]

/-- Dropping entries that are elsewhere does not change a read. -/
theorem Memory.read_filter (d : α) (m : Memory α) (p : Nat × α → Bool) (a : Nat)
    (h : ∀ c ∈ m, c.1 = a → p c = true) : Memory.read d (m.filter p) a = Memory.read d m a := by
  induction m with
  | nil => rfl
  | cons c m ih =>
    obtain ⟨k, v⟩ := c
    have ih' := ih fun c hc => h c (by simp [hc])
    by_cases hp : p (k, v) = true
    · rw [List.filter_cons_of_pos hp, Memory.read_cons, Memory.read_cons, ih']
    · rw [List.filter_cons_of_neg hp, Memory.read_cons, if_neg ?_, ih']
      intro e
      exact hp (h (k, v) (by simp) e.symm)

/-- An array inside its bound reads as unlisted at and past the bound. -/
theorem Memory.read_of_below (d : α) (size : Nat) (m : Memory α) (h : Memory.below size m) (a : Nat)
    (ha : size ≤ a) : Memory.read d m a = d :=
  Memory.read_of_not_mem d m a fun c hc => by have := h c hc; omega

section Cells
variable [DecidableEq α]

/-- The entries of a run lie inside the run, in rising order, none the unlisted value. -/
theorem Memory.cells_spec (d : α) (vs : List α) (base : Nat) :
    (Memory.cells d base vs).Pairwise (fun p q => p.1 < q.1) ∧
    ∀ c ∈ Memory.cells d base vs, base ≤ c.1 ∧ c.1 < base + vs.length ∧ c.2 ≠ d := by
  induction vs generalizing base with
  | nil => simp [Memory.cells]
  | cons v vs ih =>
    obtain ⟨hp, hm⟩ := ih (base + 1)
    unfold Memory.cells
    split
    · refine ⟨hp, fun c hc => ?_⟩
      have := hm c hc
      simp only [List.length_cons]
      exact ⟨by omega, by omega, this.2.2⟩
    · next hv =>
      refine ⟨List.pairwise_cons.2 ⟨fun c hc => by have := hm c hc; simp only; omega, hp⟩, fun c hc => ?_⟩
      rcases List.mem_cons.1 hc with rfl | hc
      · simp [hv]
      · have := hm c hc
        simp only [List.length_cons]
        exact ⟨by omega, by omega, this.2.2⟩

theorem Memory.read_cells (d : α) (vs : List α) (base a : Nat) :
    Memory.read d (Memory.cells d base vs) a = if base ≤ a then (vs[a - base]?).getD d else d := by
  induction vs generalizing base with
  | nil => simp [Memory.cells]
  | cons v vs ih =>
    unfold Memory.cells
    have key : (if base + 1 ≤ a then (vs[a - (base + 1)]?).getD d else d) =
        if a = base then d else if base ≤ a then ((v :: vs)[a - base]?).getD d else d := by
      by_cases h1 : a = base
      · subst h1; simp
      · by_cases h2 : base + 1 ≤ a
        · obtain ⟨k, hk⟩ : ∃ k, a - base = k + 1 := ⟨a - base - 1, by omega⟩
          have : a - (base + 1) = k := by omega
          rw [if_pos h2, if_neg h1, if_pos (by omega), hk, this]
          simp
        · rw [if_neg h2, if_neg h1, if_neg (by omega)]
    split
    · next hv =>
      rw [ih, key]
      by_cases h1 : a = base
      · subst h1; simp [hv]
      · rw [if_neg h1]
    · rw [Memory.read_cons, ih, key]
      by_cases h1 : a = base
      · subst h1; simp
      · rw [if_neg h1, if_neg h1]

/-- What index `a` reads after a run of values is written: the run's value inside the run, what it read before outside. -/
theorem Memory.read_writeBlock (d : α) (m : Memory α) (base : Nat) (vs : List α) (a : Nat) :
    Memory.read d (Memory.writeBlock d m base vs) a =
      if base ≤ a ∧ a < base + vs.length then (vs[a - base]?).getD d else Memory.read d m a := by
  unfold Memory.writeBlock
  have hc := (Memory.cells_spec d vs base).2
  by_cases h1 : a < base
  · rw [if_neg (by omega), List.append_assoc, Memory.read_append_right, Memory.read_filter]
    · intro c _ e; simp only [decide_eq_true_eq]; omega
    · intro c hcm
      rcases List.mem_append.1 hcm with h | h
      · have := hc c h; omega
      · have := (List.mem_filter.1 h).2; simp only [decide_eq_true_eq] at this; omega
  · rw [List.append_assoc, Memory.read_append_left]
    · by_cases h2 : a < base + vs.length
      · rw [if_pos ⟨by omega, h2⟩, Memory.read_append_right, Memory.read_cells, if_pos (by omega)]
        intro c h
        have := (List.mem_filter.1 h).2; simp only [decide_eq_true_eq] at this; omega
      · rw [if_neg (by omega), Memory.read_append_left, Memory.read_filter]
        · intro c _ e; simp only [decide_eq_true_eq]; omega
        · intro c h; have := hc c h; omega
    · intro c h
      have := (List.mem_filter.1 h).2; simp only [decide_eq_true_eq] at this; omega

/-- What index `b` reads after one value is written at `a`. -/
theorem Memory.read_write (d : α) (m : Memory α) (a : Nat) (v : α) (b : Nat) :
    Memory.read d (Memory.write d m a v) b = if b = a then v else Memory.read d m b := by
  unfold Memory.write
  rw [Memory.read_writeBlock]
  by_cases h : b = a
  · subst h; simp
  · rw [if_neg (by simp; omega), if_neg h]

/-- Writing a run keeps the canonical form. -/
theorem Memory.wf_writeBlock (d : α) (m : Memory α) (base : Nat) (vs : List α) (h : Memory.wf d m) :
    Memory.wf d (Memory.writeBlock d m base vs) := by
  obtain ⟨hp, hv⟩ := h
  obtain ⟨hcp, hcm⟩ := Memory.cells_spec d vs base
  unfold Memory.writeBlock
  refine ⟨?_, ?_⟩
  · rw [List.append_assoc, List.pairwise_append, List.pairwise_append]
    refine ⟨hp.filter _, ⟨hcp, hp.filter _, ?_⟩, ?_⟩
    · intro c hc e he
      have := hcm c hc
      have := (List.mem_filter.1 he).2; simp only [decide_eq_true_eq] at this; omega
    · intro c hc e he
      have h1 := (List.mem_filter.1 hc).2; simp only [decide_eq_true_eq] at h1
      rcases List.mem_append.1 he with h | h
      · have := hcm e h; omega
      · have := (List.mem_filter.1 h).2; simp only [decide_eq_true_eq] at this; omega
  · intro c hc
    simp only [List.mem_append, List.mem_filter] at hc
    rcases hc with (hc | hc) | hc
    · exact hv c hc.1
    · exact (hcm c hc).2.2
    · exact hv c hc.1

theorem Memory.wf_write (d : α) (m : Memory α) (a : Nat) (v : α) (h : Memory.wf d m) :
    Memory.wf d (Memory.write d m a v) := Memory.wf_writeBlock d m a [v] h

/-- Writing a run inside the bound keeps the bound. -/
theorem Memory.below_writeBlock (d : α) (size : Nat) (m : Memory α) (base : Nat) (vs : List α)
    (h : Memory.below size m) (hb : base + vs.length ≤ size) :
    Memory.below size (Memory.writeBlock d m base vs) := by
  intro c hc
  simp only [Memory.writeBlock, List.mem_append, List.mem_filter] at hc
  rcases hc with (hc | hc) | hc
  · exact h c hc.1
  · have := (Memory.cells_spec d vs base).2 c hc; omega
  · exact h c hc.1

theorem Memory.below_write (d : α) (size : Nat) (m : Memory α) (a : Nat) (v : α)
    (h : Memory.below size m) (ha : a < size) : Memory.below size (Memory.write d m a v) :=
  Memory.below_writeBlock d size m a [v] h (by simp; omega)

/-- Two canonical arrays that read the same are the same. -/
theorem Memory.ext_read (d : α) (m n : Memory α) (hm : Memory.wf d m) (hn : Memory.wf d n)
    (h : ∀ a, Memory.read d m a = Memory.read d n a) : m = n := by
  have first : ∀ (k : Nat) (v : α) (m n : Memory α), Memory.wf d ((k, v) :: m) → Memory.wf d n →
      (∀ a, Memory.read d ((k, v) :: m) a = Memory.read d n a) → ∃ c n', n = c :: n' ∧ c.1 ≤ k := by
    intro k v m n hm hn h
    have hk := h k
    rw [Memory.read_cons, if_pos rfl] at hk
    have hv : v ≠ d := hm.2 (k, v) (by simp)
    cases n with
    | nil => exact absurd hk hv
    | cons c n' =>
      refine ⟨c, n', rfl, ?_⟩
      by_contra hlt
      refine hv (hk.trans (Memory.read_of_not_mem d _ k fun e he => ?_))
      rcases List.mem_cons.1 he with rfl | he
      · omega
      · have := (List.pairwise_cons.1 hn.1).1 e he; omega
  induction m generalizing n with
  | nil =>
    cases n with
    | nil => rfl
    | cons c n =>
      obtain ⟨k, v⟩ := c
      obtain ⟨_, _, e, _⟩ := first k v n [] hn hm fun a => (h a).symm
      exact absurd e (by simp)
  | cons c m ih =>
    obtain ⟨k, v⟩ := c
    obtain ⟨⟨k', v'⟩, n', rfl, hle⟩ := first k v m n hm hn h
    obtain ⟨c', n'', e, hle'⟩ := first k' v' n' _ hn hm fun a => (h a).symm
    obtain ⟨rfl, rfl⟩ := List.cons.inj e
    have hkk : k = k' := by simp only at hle hle'; omega
    subst hkk
    have hv : v = v' := by simpa [Memory.read_cons] using h k
    subst hv
    obtain ⟨hm1, hm2⟩ := List.pairwise_cons.1 hm.1
    obtain ⟨hn1, hn2⟩ := List.pairwise_cons.1 hn.1
    congr 1
    refine ih n' ⟨hm2, fun c hc => hm.2 c (by simp [hc])⟩ ⟨hn2, fun c hc => hn.2 c (by simp [hc])⟩ fun a => ?_
    by_cases ha : a = k
    · subst ha
      rw [Memory.read_of_not_mem d m a fun c hc => by have := hm1 c hc; simp only at this; omega,
        Memory.read_of_not_mem d n' a fun c hc => by have := hn1 c hc; simp only at this; omega]
    · simpa [Memory.read_cons, ha] using h a

end Cells

end Sys2Proof.Machine
end

