-- ==== Sys2Proof/Laws/State.lean ====
section
/-! SUPPORT. One lemma per field per update of the state. -/

namespace Sys2Proof.Machine

open Sys2Proof

/-! `give` -/

@[simp] theorem State.give_vram (s : State) (r : Result) : (s.give r).vram = s.vram := rfl
@[simp] theorem State.give_io (s : State) (r : Result) : (s.give r).io = s.io := rfl
@[simp] theorem State.give_bgPltt (s : State) (r : Result) : (s.give r).bgPltt = s.bgPltt := rfl
@[simp] theorem State.give_objPltt (s : State) (r : Result) : (s.give r).objPltt = s.objPltt := rfl
@[simp] theorem State.give_oam (s : State) (r : Result) : (s.give r).oam = s.oam := rfl
@[simp] theorem State.give_fb (s : State) (r : Result) : (s.give r).fb = s.fb := rfl
@[simp] theorem State.give_regs (s : State) (r : Result) : (s.give r).regs = s.regs := rfl
@[simp] theorem State.give_line (s : State) (r : Result) : (s.give r).line = s.line := rfl
@[simp] theorem State.give_result (s : State) (r : Result) : (s.give r).result = r := rfl
@[simp] theorem State.give_port (s : State) (r : Result) : (s.give r).port = s.port := rfl

/-! `setBgLine` -/

@[simp] theorem State.setBgLine_vram (s : State) (b : Nat) (m : Memory BgCol) : (s.setBgLine b m).vram = s.vram := rfl
@[simp] theorem State.setBgLine_io (s : State) (b : Nat) (m : Memory BgCol) : (s.setBgLine b m).io = s.io := rfl
@[simp] theorem State.setBgLine_bgPltt (s : State) (b : Nat) (m : Memory BgCol) : (s.setBgLine b m).bgPltt = s.bgPltt := rfl
@[simp] theorem State.setBgLine_objPltt (s : State) (b : Nat) (m : Memory BgCol) : (s.setBgLine b m).objPltt = s.objPltt := rfl
@[simp] theorem State.setBgLine_oam (s : State) (b : Nat) (m : Memory BgCol) : (s.setBgLine b m).oam = s.oam := rfl
@[simp] theorem State.setBgLine_fb (s : State) (b : Nat) (m : Memory BgCol) : (s.setBgLine b m).fb = s.fb := rfl
@[simp] theorem State.setBgLine_regs (s : State) (b : Nat) (m : Memory BgCol) : (s.setBgLine b m).regs = s.regs := rfl
@[simp] theorem State.setBgLine_line (s : State) (b : Nat) (m : Memory BgCol) : (s.setBgLine b m).line = s.line.setBg b m := rfl
@[simp] theorem State.setBgLine_result (s : State) (b : Nat) (m : Memory BgCol) : (s.setBgLine b m).result = s.result := rfl
@[simp] theorem State.setBgLine_port (s : State) (b : Nat) (m : Memory BgCol) : (s.setBgLine b m).port = s.port := rfl

/-! `setSprLine` -/

@[simp] theorem State.setSprLine_vram (s : State) (m : Memory SprCol) : (s.setSprLine m).vram = s.vram := rfl
@[simp] theorem State.setSprLine_io (s : State) (m : Memory SprCol) : (s.setSprLine m).io = s.io := rfl
@[simp] theorem State.setSprLine_bgPltt (s : State) (m : Memory SprCol) : (s.setSprLine m).bgPltt = s.bgPltt := rfl
@[simp] theorem State.setSprLine_objPltt (s : State) (m : Memory SprCol) : (s.setSprLine m).objPltt = s.objPltt := rfl
@[simp] theorem State.setSprLine_oam (s : State) (m : Memory SprCol) : (s.setSprLine m).oam = s.oam := rfl
@[simp] theorem State.setSprLine_fb (s : State) (m : Memory SprCol) : (s.setSprLine m).fb = s.fb := rfl
@[simp] theorem State.setSprLine_regs (s : State) (m : Memory SprCol) : (s.setSprLine m).regs = s.regs := rfl
@[simp] theorem State.setSprLine_line (s : State) (m : Memory SprCol) : (s.setSprLine m).line = { s.line with spr := m } := rfl
@[simp] theorem State.setSprLine_result (s : State) (m : Memory SprCol) : (s.setSprLine m).result = s.result := rfl
@[simp] theorem State.setSprLine_port (s : State) (m : Memory SprCol) : (s.setSprLine m).port = s.port := rfl

/-! `advance` -/

@[simp] theorem State.advance_vram (s : State) (rest : List Byte) : (s.advance rest).vram = s.vram := rfl
@[simp] theorem State.advance_io (s : State) (rest : List Byte) : (s.advance rest).io = s.io := rfl
@[simp] theorem State.advance_bgPltt (s : State) (rest : List Byte) : (s.advance rest).bgPltt = s.bgPltt := rfl
@[simp] theorem State.advance_objPltt (s : State) (rest : List Byte) : (s.advance rest).objPltt = s.objPltt := rfl
@[simp] theorem State.advance_oam (s : State) (rest : List Byte) : (s.advance rest).oam = s.oam := rfl
@[simp] theorem State.advance_fb (s : State) (rest : List Byte) : (s.advance rest).fb = s.fb := rfl
@[simp] theorem State.advance_regs (s : State) (rest : List Byte) : (s.advance rest).regs = s.regs := rfl
@[simp] theorem State.advance_line (s : State) (rest : List Byte) : (s.advance rest).line = s.line := rfl
@[simp] theorem State.advance_result (s : State) (rest : List Byte) : (s.advance rest).result = s.result := rfl
@[simp] theorem State.advance_port (s : State) (rest : List Byte) : (s.advance rest).port = rest := rfl

/-! `withPort` -/

@[simp] theorem State.withPort_vram (s : State) (bs : List Byte) : (s.withPort bs).vram = s.vram := rfl
@[simp] theorem State.withPort_io (s : State) (bs : List Byte) : (s.withPort bs).io = s.io := rfl
@[simp] theorem State.withPort_bgPltt (s : State) (bs : List Byte) : (s.withPort bs).bgPltt = s.bgPltt := rfl
@[simp] theorem State.withPort_objPltt (s : State) (bs : List Byte) : (s.withPort bs).objPltt = s.objPltt := rfl
@[simp] theorem State.withPort_oam (s : State) (bs : List Byte) : (s.withPort bs).oam = s.oam := rfl
@[simp] theorem State.withPort_fb (s : State) (bs : List Byte) : (s.withPort bs).fb = s.fb := rfl
@[simp] theorem State.withPort_regs (s : State) (bs : List Byte) : (s.withPort bs).regs = s.regs := rfl
@[simp] theorem State.withPort_line (s : State) (bs : List Byte) : (s.withPort bs).line = s.line := rfl
@[simp] theorem State.withPort_result (s : State) (bs : List Byte) : (s.withPort bs).result = s.result := rfl
@[simp] theorem State.withPort_port (s : State) (bs : List Byte) : (s.withPort bs).port = bs := rfl

/-! `clearLine` -/

@[simp] theorem State.clearLine_vram (s : State) : (s.clearLine).vram = s.vram := rfl
@[simp] theorem State.clearLine_io (s : State) : (s.clearLine).io = s.io := rfl
@[simp] theorem State.clearLine_bgPltt (s : State) : (s.clearLine).bgPltt = s.bgPltt := rfl
@[simp] theorem State.clearLine_objPltt (s : State) : (s.clearLine).objPltt = s.objPltt := rfl
@[simp] theorem State.clearLine_oam (s : State) : (s.clearLine).oam = s.oam := rfl
@[simp] theorem State.clearLine_fb (s : State) : (s.clearLine).fb = s.fb := rfl
@[simp] theorem State.clearLine_regs (s : State) : (s.clearLine).regs = s.regs := rfl
@[simp] theorem State.clearLine_line (s : State) : (s.clearLine).line = LineBuffers.cleared := rfl
@[simp] theorem State.clearLine_result (s : State) : (s.clearLine).result = s.result := rfl
@[simp] theorem State.clearLine_port (s : State) : (s.clearLine).port = s.port := rfl

/-! `forcedBlankFill` -/

@[simp] theorem State.forcedBlankFill_vram (s : State) : (s.forcedBlankFill).vram = s.vram := rfl
@[simp] theorem State.forcedBlankFill_io (s : State) : (s.forcedBlankFill).io = s.io := rfl
@[simp] theorem State.forcedBlankFill_bgPltt (s : State) : (s.forcedBlankFill).bgPltt = s.bgPltt := rfl
@[simp] theorem State.forcedBlankFill_objPltt (s : State) : (s.forcedBlankFill).objPltt = s.objPltt := rfl
@[simp] theorem State.forcedBlankFill_oam (s : State) : (s.forcedBlankFill).oam = s.oam := rfl
@[simp] theorem State.forcedBlankFill_fb (s : State) : (s.forcedBlankFill).fb = Memory.writeBlock 0 s.fb 0 (List.replicate Config.fbWords Config.white) := rfl
@[simp] theorem State.forcedBlankFill_regs (s : State) : (s.forcedBlankFill).regs = s.regs := rfl
@[simp] theorem State.forcedBlankFill_line (s : State) : (s.forcedBlankFill).line = s.line := rfl
@[simp] theorem State.forcedBlankFill_result (s : State) : (s.forcedBlankFill).result = s.result := rfl
@[simp] theorem State.forcedBlankFill_port (s : State) : (s.forcedBlankFill).port = s.port := rfl

/-! `withFrame` -/

@[simp] theorem State.withFrame_vram (s : State) (w h : Nat) (row : Nat → List Word) : (s.withFrame w h row).vram = s.vram := rfl
@[simp] theorem State.withFrame_io (s : State) (w h : Nat) (row : Nat → List Word) : (s.withFrame w h row).io = s.io := rfl
@[simp] theorem State.withFrame_bgPltt (s : State) (w h : Nat) (row : Nat → List Word) : (s.withFrame w h row).bgPltt = s.bgPltt := rfl
@[simp] theorem State.withFrame_objPltt (s : State) (w h : Nat) (row : Nat → List Word) : (s.withFrame w h row).objPltt = s.objPltt := rfl
@[simp] theorem State.withFrame_oam (s : State) (w h : Nat) (row : Nat → List Word) : (s.withFrame w h row).oam = s.oam := rfl
@[simp] theorem State.withFrame_fb (s : State) (w h : Nat) (row : Nat → List Word) : (s.withFrame w h row).fb = writeFrame s.fb w h row := rfl
@[simp] theorem State.withFrame_regs (s : State) (w h : Nat) (row : Nat → List Word) : (s.withFrame w h row).regs = s.regs := rfl
@[simp] theorem State.withFrame_line (s : State) (w h : Nat) (row : Nat → List Word) : (s.withFrame w h row).line = LineBuffers.cleared := rfl
@[simp] theorem State.withFrame_result (s : State) (w h : Nat) (row : Nat → List Word) : (s.withFrame w h row).result = s.result := rfl
@[simp] theorem State.withFrame_port (s : State) (w h : Nat) (row : Nat → List Word) : (s.withFrame w h row).port = s.port := rfl

/-! The line buffers of one background or of the sprites after another is replaced. -/

@[simp] theorem LineBuffers.setBg_spr (lb : LineBuffers) (b : Nat) (m : Memory BgCol) : (lb.setBg b m).spr = lb.spr := by
  unfold LineBuffers.setBg; split <;> rfl

theorem LineBuffers.bg_setBg (lb : LineBuffers) (b c : Nat) (m : Memory BgCol) (hb : b < 4) (hc : c < 4) :
    (lb.setBg b m).bg c = if c = b then m else lb.bg c := by
  have h : ∀ b c : Fin 4, (lb.setBg b m).bg c = if c.val = b.val then m else lb.bg c := by
    intro b c
    match b, c with
    | 0, 0 | 0, 1 | 0, 2 | 0, 3 | 1, 0 | 1, 1 | 1, 2 | 1, 3 => rfl
    | 2, 0 | 2, 1 | 2, 2 | 2, 3 | 3, 0 | 3, 1 | 3, 2 | 3, 3 => rfl
  exact h ⟨b, hb⟩ ⟨c, hc⟩

@[simp] theorem LineBuffers.setSpr_bg (lb : LineBuffers) (m : Memory SprCol) (b : Nat) :
    ({ lb with spr := m } : LineBuffers).bg b = lb.bg b := by
  unfold LineBuffers.bg; split <;> rfl

@[simp] theorem LineBuffers.setBg_sprCol (lb : LineBuffers) (b : Nat) (m : Memory BgCol) (x : Nat) :
    (lb.setBg b m).sprCol x = lb.sprCol x := by simp [LineBuffers.sprCol]

@[simp] theorem LineBuffers.setSpr_bgCol (lb : LineBuffers) (m : Memory SprCol) (b x : Nat) :
    ({ lb with spr := m } : LineBuffers).bgCol b x = lb.bgCol b x := by simp [LineBuffers.bgCol]

theorem LineBuffers.bgCol_setBg (lb : LineBuffers) (b c : Nat) (m : Memory BgCol) (hb : b < 4) (hc : c < 4) (x : Nat) :
    (lb.setBg b m).bgCol c x = if c = b then Memory.read BgCol.transparent m x else lb.bgCol c x := by
  unfold LineBuffers.bgCol
  rw [LineBuffers.bg_setBg lb b c m hb hc]
  split <;> rfl

/-- The line buffers are determined by their parts. -/
theorem LineBuffers.ext_bg (a b : LineBuffers) (hbg : ∀ i, i < 4 → a.bg i = b.bg i) (hspr : a.spr = b.spr) : a = b := by
  have h0 := hbg 0 (by decide)
  have h1 := hbg 1 (by decide)
  have h2 := hbg 2 (by decide)
  have h3 := hbg 3 (by decide)
  cases a; cases b
  simp only [LineBuffers.bg] at *
  simp [*]

@[simp] theorem LineBuffers.cleared_bg (b : Nat) : LineBuffers.cleared.bg b = [] := by
  unfold LineBuffers.bg; split <;> rfl

@[simp] theorem LineBuffers.cleared_bgCol (b x : Nat) : LineBuffers.cleared.bgCol b x = BgCol.transparent := by
  simp [LineBuffers.bgCol, Memory.read]

@[simp] theorem LineBuffers.cleared_sprCol (x : Nat) : LineBuffers.cleared.sprCol x = SprCol.empty := rfl

end Sys2Proof.Machine
end

