-- ==== Sys2Proof/Laws/Words.lean ====
section
/-! SUPPORT. Numbers joined from bytes. -/

namespace Sys2Proof

/-- A joined number is the sum of its parts. -/
theorem toNat_append_add {m n : Nat} (a : BitVec m) (b : BitVec n) : (a ++ b).toNat = a.toNat * 2 ^ n + b.toNat := by
  rw [BitVec.toNat_append, ← Nat.shiftLeft_add_eq_or_of_lt b.isLt, Nat.shiftLeft_eq]

/-- Two bytes joined (20_memory.md R200). -/
theorem half_toNat (a b : Byte) : (b ++ a : Half).toNat = b.toNat * 2 ^ 8 + a.toNat := toNat_append_add b a

/-- Four bytes joined (20_memory.md R200). -/
theorem word_toNat (a b c d : Byte) :
    (d ++ c ++ b ++ a : Word).toNat = d.toNat * 2 ^ 24 + c.toNat * 2 ^ 16 + b.toNat * 2 ^ 8 + a.toNat := by
  have h1 : (d ++ c ++ b ++ a : Word).toNat = (d ++ c ++ b).toNat * 2 ^ 8 + a.toNat := toNat_append_add _ _
  have h2 : (d ++ c ++ b).toNat = (d ++ c).toNat * 2 ^ 8 + b.toNat := toNat_append_add _ _
  have h3 : (d ++ c).toNat = d.toNat * 2 ^ 8 + c.toNat := toNat_append_add _ _
  rw [h1, h2, h3]
  ring

/-- A zero-extended number. -/
theorem zero_append_toNat {m n : Nat} (a : BitVec n) : (0#m ++ a).toNat = a.toNat := by
  rw [toNat_append_add]; simp

end Sys2Proof
end

