-- ==== Sys2Proof/Laws/Ops.lean ====
section
/-! SUPPORT. What each shared operation can do, said once: the line buffers, the rows of a frame, the host's writes. -/

namespace Sys2Proof.Machine

open Sys2Proof

/-! ### Line buffers -/

theorem bgBuffer_read (w : Nat) (f : Nat → BgCol) (x : Nat) :
    Memory.read BgCol.transparent (bgBuffer w f) x = if x < w then f x else BgCol.transparent := by
  unfold bgBuffer
  rw [Memory.read_writeBlock]
  by_cases h : x < w
  · simp [h]
  · simp [h]

theorem sprBuffer_read (w : Nat) (f : Nat → SprCol) (x : Nat) :
    Memory.read SprCol.empty (sprBuffer w f) x = if x < w then f x else SprCol.empty := by
  unfold sprBuffer
  rw [Memory.read_writeBlock]
  by_cases h : x < w
  · simp [h]
  · simp [h]

theorem bgBuffer_ok (w size : Nat) (f : Nat → BgCol) (h : w ≤ size) :
    Memory.ok BgCol.transparent size (bgBuffer w f) :=
  ⟨Memory.wf_writeBlock _ _ _ _ ⟨List.Pairwise.nil, by simp⟩,
    Memory.below_writeBlock _ _ _ _ _ (by intro c hc; cases hc) (by simpa using h)⟩

theorem sprBuffer_ok (w size : Nat) (f : Nat → SprCol) (h : w ≤ size) :
    Memory.ok SprCol.empty size (sprBuffer w f) :=
  ⟨Memory.wf_writeBlock _ _ _ _ ⟨List.Pairwise.nil, by simp⟩,
    Memory.below_writeBlock _ _ _ _ _ (by intro c hc; cases hc) (by simpa using h)⟩

/-- A line buffer depends on its columns inside the width alone. -/
theorem bgBuffer_congr (w : Nat) (f g : Nat → BgCol) (h : ∀ x, x < w → f x = g x) : bgBuffer w f = bgBuffer w g := by
  unfold bgBuffer
  congr 1
  exact List.map_congr_left fun x hx => h x (List.mem_range.1 hx)

theorem sprBuffer_congr (w : Nat) (f g : Nat → SprCol) (h : ∀ x, x < w → f x = g x) :
    sprBuffer w f = sprBuffer w g := by
  unfold sprBuffer
  congr 1
  exact List.map_congr_left fun x hx => h x (List.mem_range.1 hx)

/-- A line buffer in which every column is transparent is the one just created. -/
theorem bgBuffer_transparent (w : Nat) : bgBuffer w (fun _ => BgCol.transparent) = [] :=
  Memory.ext_read BgCol.transparent _ _ (bgBuffer_ok w w _ (Nat.le_refl w)).1 ⟨List.Pairwise.nil, by simp⟩ fun a => by
    rw [bgBuffer_read]; split <;> rfl

theorem sprBuffer_empty (w : Nat) : sprBuffer w (fun _ => SprCol.empty) = [] :=
  Memory.ext_read SprCol.empty _ _ (sprBuffer_ok w w _ (Nat.le_refl w)).1 ⟨List.Pairwise.nil, by simp⟩ fun a => by
    rw [sprBuffer_read]; split <;> rfl

/-! ### Rows of a frame -/

/-- A framebuffer word after a row of `w` words is written. -/
theorem writeRow_read (fb : Memory Word) (w y : Nat) (row : List Word) (hl : row.length = w) (i : Nat) :
    Memory.read 0 (writeRow fb w y row) i =
      if y * w ≤ i ∧ i < y * w + w then (row[i - y * w]?).getD 0 else Memory.read 0 fb i := by
  unfold writeRow
  rw [Memory.read_writeBlock, hl]

/-- A framebuffer word after a frame of `w` x `h` words is written: word `y*w + x` of the row of line `y`. -/
theorem writeFrame_read (fb : Memory Word) (w h : Nat) (row : Nat → List Word) (hl : ∀ y, y < h → (row y).length = w)
    (i : Nat) :
    Memory.read 0 (writeFrame fb w h row) i =
      if i < h * w then ((row (i / w))[i % w]?).getD 0 else Memory.read 0 fb i := by
  unfold writeFrame
  induction h with
  | zero => simp
  | succ h ih =>
    rw [List.range_succ, List.foldl_append]
    simp only [List.foldl_cons, List.foldl_nil]
    rw [writeRow_read _ _ _ _ (hl h (by omega)), ih fun y hy => hl y (by omega)]
    have hs : (h + 1) * w = h * w + w := by rw [Nat.add_mul]; simp
    by_cases h1 : h * w ≤ i ∧ i < h * w + w
    · have hw : 0 < w := by omega
      have hd : i / w = h := by
        rw [Nat.div_eq_iff hw]
        constructor
        · exact h1.1
        · have := h1.2; omega
      have hm : i % w = i - h * w := by
        have := Nat.div_add_mod i w
        rw [hd, Nat.mul_comm] at this
        omega
      rw [if_pos h1, if_pos (by omega), hd, hm]
    · rw [if_neg h1]
      by_cases h2 : i < h * w
      · rw [if_pos h2, if_pos (by omega)]
      · rw [if_neg h2, if_neg (by omega)]

/-- Pixel (x, y) of a frame. -/
theorem writeFrame_pixel (fb : Memory Word) (w h : Nat) (row : Nat → List Word) (hl : ∀ y, y < h → (row y).length = w)
    (x y : Nat) (hx : x < w) (hy : y < h) :
    Memory.read 0 (writeFrame fb w h row) (y * w + x) = ((row y)[x]?).getD 0 := by
  have hlt : y * w + x < h * w := by
    have : (y + 1) * w ≤ h * w := Nat.mul_le_mul_right w hy
    rw [Nat.add_mul] at this; omega
  have hw : 0 < w := by omega
  have hd : (y * w + x) / w = y := by
    rw [Nat.mul_comm, Nat.mul_add_div hw, Nat.div_eq_of_lt hx]; rfl
  have hm : (y * w + x) % w = x := by
    rw [Nat.mul_comm, Nat.mul_add_mod, Nat.mod_eq_of_lt hx]
  rw [writeFrame_read fb w h row hl, if_pos hlt, hd, hm]

theorem writeRow_ok (fb : Memory Word) (size w y : Nat) (row : List Word) (hf : Memory.ok 0 size fb)
    (hs : y * w + row.length ≤ size) : Memory.ok 0 size (writeRow fb w y row) :=
  ⟨Memory.wf_writeBlock _ _ _ _ hf.1, Memory.below_writeBlock _ _ _ _ _ hf.2 hs⟩

theorem writeFrame_ok (fb : Memory Word) (size w h : Nat) (row : Nat → List Word) (hl : ∀ y, y < h → (row y).length = w)
    (hf : Memory.ok 0 size fb) (hs : h * w ≤ size) : Memory.ok 0 size (writeFrame fb w h row) := by
  unfold writeFrame
  induction h with
  | zero => exact hf
  | succ h ih =>
    have e : (h + 1) * w = h * w + w := by rw [Nat.add_mul]; simp
    rw [List.range_succ, List.foldl_append]
    simp only [List.foldl_cons, List.foldl_nil]
    refine writeRow_ok _ _ _ _ _ (ih (fun y hy => hl y (by omega)) (by omega)) ?_
    rw [hl h (by omega)]; omega

/-- The framebuffer after the forced-blank fill. -/
theorem forcedBlankFill_fbWord (s : State) (i : Nat) :
    s.forcedBlankFill.fbWord i = if i < Config.fbWords then Config.white else s.fbWord i := by
  unfold State.fbWord
  rw [State.forcedBlankFill_fb, Memory.read_writeBlock]
  simp only [List.length_replicate, Nat.zero_add, Nat.zero_le, true_and, Nat.sub_zero]
  split
  · next h => rw [List.getElem?_replicate, if_pos h]; rfl
  · rfl

/-- The framebuffer after a rendered frame. -/
theorem withFrame_fbWord (s : State) (w h : Nat) (row : Nat → List Word) (hl : ∀ y, y < h → (row y).length = w) (i : Nat) :
    (s.withFrame w h row).fbWord i = if i < h * w then ((row (i / w))[i % w]?).getD 0 else s.fbWord i :=
  writeFrame_read s.fb w h row hl i

/-! ### The host's writes -/

/-- The bytes of a word with one byte replaced. -/
theorem setByte_byte (w : Word) (k j : Nat) (b : Byte) (hj : j < 4) :
    (setByte w k b).extractLsb' (8 * j) 8 = if j = k then b else w.extractLsb' (8 * j) 8 := by
  unfold setByte assemble
  obtain rfl | rfl | rfl | rfl : j = 0 ∨ j = 1 ∨ j = 2 ∨ j = 3 := by omega
  all_goals
    simp only [Nat.zero_add]
    generalize (if 0 = k then b else w.extractLsb' (8 * 0) 8) = b0
    generalize (if 1 = k then b else w.extractLsb' (8 * 1) 8) = b1
    generalize (if 2 = k then b else w.extractLsb' (8 * 2) 8) = b2
    generalize (if 3 = k then b else w.extractLsb' (8 * 3) 8) = b3
    apply BitVec.eq_of_toNat_eq
    simp only [BitVec.extractLsb'_toNat, Nat.shiftRight_eq_div_pow, word_toNat]
    omega

/-- A host byte write: it reaches its byte when that lies in the region, and nothing else. -/
theorem State.pokeByte_regionByte (s : State) (r : Region) (off : Int) (b : Byte) (r' : Region) (a : Nat) :
    (s.pokeByte r off b).regionByte r' a =
      if r' = r ∧ (a : Int) = off ∧ a < regionSize r then b else s.regionByte r' a := by
  unfold State.pokeByte
  by_cases h : 0 ≤ off ∧ off < regionSize r
  · rw [if_pos h]
    have ha : ((a : Int) = off ∧ a < regionSize r) ↔ a = off.toNat := by omega
    simp only [ha]
    cases r <;> cases r' <;> simp only [State.setRegionByte, State.regionByte, Memory.read_write, reduceCtorEq, false_and,
      if_false, true_and]
    by_cases h4 : a / 4 = off.toNat / 4
    · rw [if_pos h4, setByte_byte _ _ _ _ (Nat.mod_lt _ (by decide)), h4]
      exact if_congr (by omega) rfl rfl
    · rw [if_neg h4, if_neg (fun e => h4 (by rw [e]))]
  · rw [if_neg h, if_neg]
    rintro ⟨_, h1, h2⟩
    omega

/-- What a write of the host to region `r` leaves: `Registers`, the line buffers, the result, the port, and the regions it is
not for. -/
def State.hostFrame (r : Region) (s t : State) : Prop :=
  t.regs = s.regs ∧ t.line = s.line ∧ t.result = s.result ∧ t.port = s.port ∧
  (r ≠ .fb → t.fb = s.fb) ∧ (r = .fb → s.sameInputs t)

/-- A run of byte writes leaves everything but its region as it is. -/
theorem State.pokeBytes_frame (r : Region) (off : Int) (v : Nat → Byte) (n : Nat) (s : State) :
    s.hostFrame r ((List.range n).foldl (fun s (k : Nat) => s.pokeByte r (off + k) (v k)) s) := by
  induction n with
  | zero => exact ⟨rfl, rfl, rfl, rfl, fun _ => rfl, fun _ => ⟨rfl, rfl, rfl, rfl, rfl, rfl⟩⟩
  | succ n ih =>
    rw [List.range_succ, List.foldl_append]
    simp only [List.foldl_cons, List.foldl_nil]
    generalize (List.range n).foldl (fun s (k : Nat) => s.pokeByte r (off + k) (v k)) s = t at ih ⊢
    unfold State.pokeByte
    split
    · unfold State.hostFrame State.sameInputs at ih ⊢
      cases r <;> simpa [State.setRegionByte] using ih
    · exact ih

/-- What every byte of every region reads after a run of byte writes. -/
theorem State.pokeBytes_regionByte (r : Region) (off : Int) (v : Nat → Byte) (n : Nat) (s : State)
    (r' : Region) (a : Nat) :
    ((List.range n).foldl (fun s (k : Nat) => s.pokeByte r (off + k) (v k)) s).regionByte r' a =
      if r' = r ∧ off ≤ a ∧ (a : Int) < off + n ∧ a < regionSize r then
        v ((a : Int) - off).toNat
      else s.regionByte r' a := by
  induction n with
  | zero => rw [if_neg (by omega)]; rfl
  | succ n ih =>
    rw [List.range_succ, List.foldl_append]
    simp only [List.foldl_cons, List.foldl_nil]
    rw [State.pokeByte_regionByte, ih]
    by_cases h1 : r' = r ∧ (a : Int) = off + n ∧ a < regionSize r
    · rw [if_pos h1, if_pos ⟨h1.1, by omega, by omega, h1.2.2⟩]
      congr 1; omega
    · rw [if_neg h1]
      by_cases h2 : r' = r ∧ off ≤ a ∧ (a : Int) < off + n ∧ a < regionSize r
      · rw [if_pos h2, if_pos ⟨h2.1, h2.2.1, by omega, h2.2.2.2⟩]
      · rw [if_neg h2, if_neg]
        rintro ⟨e1, e2, e3, e4⟩
        exact h2 ⟨e1, e2, by
          by_contra h3
          exact h1 ⟨e1, by omega, e4⟩, e4⟩

/-- `MemWrite`: the bytes inside the region take the value's bytes, every other byte is as before. -/
theorem State.memWrite_regionByte (s : State) (r : Region) (off : Int) (n : Width) (v : Word) (r' : Region)
    (a : Nat) :
    (s.memWrite r off n v).regionByte r' a =
      if r' = r ∧ off ≤ a ∧ (a : Int) < off + widthBytes n ∧ a < regionSize r then
        v.extractLsb' (8 * ((a : Int) - off).toNat) 8
      else s.regionByte r' a :=
  State.pokeBytes_regionByte r off (fun k => v.extractLsb' (8 * k) 8) (widthBytes n) s r' a

/-- `FILL`: the bytes inside the region take the value, every other byte is as before. -/
theorem State.memFill_regionByte (s : State) (r : Region) (off : Int) (len : Nat) (b : Byte) (r' : Region)
    (a : Nat) :
    (s.memFill r off len b).regionByte r' a =
      if r' = r ∧ off ≤ a ∧ (a : Int) < off + len ∧ a < regionSize r then b
      else s.regionByte r' a :=
  State.pokeBytes_regionByte r off (fun _ => b) len s r' a

theorem State.memWrite_frame (s : State) (r : Region) (off : Int) (n : Width) (v : Word) :
    s.hostFrame r (s.memWrite r off n v) :=
  State.pokeBytes_frame r off (fun k => v.extractLsb' (8 * k) 8) (widthBytes n) s

theorem State.memFill_frame (s : State) (r : Region) (off : Int) (len : Nat) (b : Byte) :
    s.hostFrame r (s.memFill r off len b) :=
  State.pokeBytes_frame r off (fun _ => b) len s

/-- Every region stays canonical and inside its bounds under a host byte write. -/
theorem State.pokeByte_canonical (s : State) (r : Region) (off : Int) (b : Byte) (h : s.canonical) :
    (s.pokeByte r off b).canonical := by
  unfold State.pokeByte
  split
  · next ho =>
    obtain ⟨h1, h2, h3, h4, h5, h6, h7, h8⟩ := h
    have hw : ∀ (m : Memory Byte) (size : Nat), Memory.ok 0 size m → off.toNat < size →
        Memory.ok 0 size (Memory.write 0 m off.toNat b) := fun m size hm ha =>
      ⟨Memory.wf_write _ _ _ _ hm.1, Memory.below_write _ _ _ _ _ hm.2 ha⟩
    have hf : ∀ w : Word, off.toNat / 4 < Config.fbWords → Memory.ok 0 Config.fbWords (Memory.write 0 s.fb (off.toNat / 4) w) :=
      fun w ha => ⟨Memory.wf_write _ _ _ _ h6.1, Memory.below_write _ _ _ _ _ h6.2 ha⟩
    cases r <;> simp only [regionSize] at ho <;> refine ⟨?_, ?_, ?_, ?_, ?_, ?_, ?_, ?_⟩ <;>
      first
        | assumption
        | exact hw _ _ (by assumption) (by omega)
        | exact hf _ (by omega)
  · exact h

theorem State.pokeBytes_canonical (r : Region) (off : Int) (v : Nat → Byte) (n : Nat) (s : State) (h : s.canonical) :
    ((List.range n).foldl (fun s (k : Nat) => s.pokeByte r (off + k) (v k)) s).canonical := by
  induction n with
  | zero => exact h
  | succ n ih =>
    rw [List.range_succ, List.foldl_append]
    exact State.pokeByte_canonical _ _ _ _ ih

theorem State.memWrite_canonical (s : State) (r : Region) (off : Int) (n : Width) (v : Word) (h : s.canonical) :
    (s.memWrite r off n v).canonical := State.pokeBytes_canonical r off _ _ s h

theorem State.memFill_canonical (s : State) (r : Region) (off : Int) (len : Nat) (b : Byte) (h : s.canonical) :
    (s.memFill r off len b).canonical := State.pokeBytes_canonical r off _ _ s h

end Sys2Proof.Machine
end

