-- ==== Sys2Proof/Laws/Reads.lean ====
section
/-! SUPPORT. What the bounds-checked reads and the bit-field operands give, said once. -/

namespace Sys2Proof.Machine

open Sys2Proof

/-! ### Bit fields -/

/-- A field as a number (00_scope.md R12). -/
theorem bitsN_eq {n : Nat} (v : BitVec n) (lo len : Nat) : bitsN v lo len = v.toNat / 2 ^ lo % 2 ^ len := by
  simp [bitsN, bits, Nat.shiftRight_eq_div_pow]

theorem bitsN_lt {n : Nat} (v : BitVec n) (lo len : Nat) : bitsN v lo len < 2 ^ len := (bits v lo len).isLt

/-- A bit as a number. -/
theorem bit_eq {n : Nat} (v : BitVec n) (i : Nat) : bit v i = decide (v.toNat / 2 ^ i % 2 = 1) := by
  rw [bit, ← BitVec.testBit_toNat, Nat.testBit_eq_decide_div_mod_eq]

/-- A field of two neighbouring bits is their pair. -/
theorem bitsN_two {n : Nat} (v : BitVec n) (lo : Nat) :
    bitsN v lo 2 = 2 * (bit v (lo + 1)).toNat + (bit v lo).toNat := by
  have e : v.toNat / 2 ^ (lo + 1) = v.toNat / 2 ^ lo / 2 := by rw [Nat.pow_succ, Nat.div_div_eq_div_mul]
  rw [bitsN_eq, bit_eq, bit_eq, e]
  generalize v.toNat / 2 ^ lo = k
  rcases Nat.mod_two_eq_zero_or_one k with h | h <;> rcases Nat.mod_two_eq_zero_or_one (k / 2) with h' | h' <;>
    simp [h, h'] <;> omega

theorem setWidth_bits_toNat {n : Nat} (v : BitVec n) (lo len : Nat) :
    ((bits v lo len).setWidth 8 : Byte) = BitVec.ofNat 8 (bitsN v lo len) := by
  apply BitVec.eq_of_toNat_eq
  simp [bitsN]

/-! ### Bounds-checked reads -/

theorem inRange_iff (size : Nat) (off : Int) (n : Nat) : inRange size off n = true ↔ 0 ≤ off ∧ off + n ≤ size := by
  simp [inRange]

/-- `read_u8` (40_memory_views.md R401). -/
theorem State.readU8_eq (s : State) (v : View) (off : Int) :
    s.readU8 v off = if 0 ≤ off ∧ off + 1 ≤ viewSize v then s.viewByte v off.toNat else 0 := by
  unfold State.readU8 memRead
  by_cases h : 0 ≤ off ∧ off + 1 ≤ viewSize v
  · rw [if_pos ((inRange_iff _ _ _).2 (by simpa [widthBytes] using h)), if_pos h]
    apply BitVec.eq_of_toNat_eq
    have e : (0#24 ++ s.viewByte v off.toNat : Word).toNat = (s.viewByte v off.toNat).toNat := zero_append_toNat _
    have := (s.viewByte v off.toNat).isLt
    rw [assemble, BitVec.toNat_setWidth, e]
    omega
  · rw [if_neg (fun e => h (by simpa [widthBytes] using (inRange_iff _ _ _).1 e)), if_neg h]
    rfl

/-- `read_u16_le` (40_memory_views.md R402). -/
theorem State.readU16_eq (s : State) (v : View) (off : Int) :
    s.readU16 v off =
      if 0 ≤ off ∧ off + 2 ≤ viewSize v then s.viewByte v (off.toNat + 1) ++ s.viewByte v off.toNat else 0 := by
  unfold State.readU16 memRead
  by_cases h : 0 ≤ off ∧ off + 2 ≤ viewSize v
  · rw [if_pos ((inRange_iff _ _ _).2 (by simpa [widthBytes] using h)), if_pos h]
    apply BitVec.eq_of_toNat_eq
    have e : ((0#16 ++ s.viewByte v (off.toNat + 1)) ++ s.viewByte v off.toNat : Word).toNat =
        (0#16 ++ s.viewByte v (off.toNat + 1)).toNat * 2 ^ 8 + (s.viewByte v off.toNat).toNat := toNat_append_add _ _
    have h1 := (s.viewByte v off.toNat).isLt
    have h2 := (s.viewByte v (off.toNat + 1)).isLt
    rw [assemble, BitVec.toNat_setWidth, e, zero_append_toNat, half_toNat]
    omega
  · rw [if_neg (fun e => h (by simpa [widthBytes] using (inRange_iff _ _ _).1 e)), if_neg h]
    rfl

/-- `read_u32_le` (40_memory_views.md R403). -/
theorem State.readU32_eq (s : State) (v : View) (off : Int) :
    s.readU32 v off =
      if 0 ≤ off ∧ off + 4 ≤ viewSize v then
        s.viewByte v (off.toNat + 3) ++ s.viewByte v (off.toNat + 2) ++ s.viewByte v (off.toNat + 1)
          ++ s.viewByte v off.toNat
      else 0 := by
  unfold State.readU32 memRead
  by_cases h : 0 ≤ off ∧ off + 4 ≤ viewSize v
  · rw [if_pos ((inRange_iff _ _ _).2 (by simpa [widthBytes] using h)), if_pos h]
    rfl
  · rw [if_neg (fun e => h (by simpa [widthBytes] using (inRange_iff _ _ _).1 e)), if_neg h]

/-- Two states whose view holds the same bytes read the same through it. -/
theorem State.readU8_congr (s t : State) (v : View) (h : ∀ o, o < viewSize v → s.viewByte v o = t.viewByte v o) (off : Int) :
    s.readU8 v off = t.readU8 v off := by
  rw [State.readU8_eq, State.readU8_eq]
  split
  · rw [h _ (by omega)]
  · rfl

theorem State.readU16_congr (s t : State) (v : View) (off : Int)
    (h : ∀ o : Nat, off ≤ o → (o : Int) < off + 2 → o < viewSize v → s.viewByte v o = t.viewByte v o) :
    s.readU16 v off = t.readU16 v off := by
  rw [State.readU16_eq, State.readU16_eq]
  split
  · rw [h _ (by omega) (by omega) (by omega), h _ (by omega) (by omega) (by omega)]
  · rfl

theorem State.readU32_congr (s t : State) (v : View) (off : Int)
    (h : ∀ o : Nat, off ≤ o → (o : Int) < off + 4 → o < viewSize v → s.viewByte v o = t.viewByte v o) :
    s.readU32 v off = t.readU32 v off := by
  rw [State.readU32_eq, State.readU32_eq]
  split
  · rw [h _ (by omega) (by omega) (by omega), h _ (by omega) (by omega) (by omega),
      h _ (by omega) (by omega) (by omega), h _ (by omega) (by omega) (by omega)]
  · rfl

/-! ### Blank VRAM -/

/-- Every field of the mode-0 record of blank VRAM is 0, whatever the layout (70_reset_and_hazards.md R1101). -/
theorem m0Field_nil (L : Config.Mode0Layout) (f : Config.M0Field) : m0Field L [] f = 0 := by
  have h : ∀ off n, m0Read [] off n = 0 := by
    intro off n
    unfold m0Read memRead
    split
    · cases n <;> simp [assemble, Memory.read_nil]
    · rfl
  unfold m0Field
  dsimp only
  rw [h]
  simp

/-- Blank VRAM has no forced blank in mode 0. -/
theorem m0_forcedBlank_of_blank (s : State) (h : s.vram = []) : s.m0.g.forcedBlank = false := by
  unfold State.m0
  rw [h]
  show decide (m0Field Config.mode0Layout [] .forcedBlank ≠ 0) = false
  rw [m0Field_nil]
  rfl

/-! ### Placed fields -/

/-- The number of assembled bytes. -/
theorem assemble_toNat (rd : Nat → Byte) (o : Nat) (n : Width) : (assemble rd o n).toNat =
    match n with
    | .w1 => (rd o).toNat
    | .w2 => (rd o).toNat + (rd (o + 1)).toNat * 2 ^ 8
    | .w4 => (rd o).toNat + (rd (o + 1)).toNat * 2 ^ 8 + (rd (o + 2)).toNat * 2 ^ 16 + (rd (o + 3)).toNat * 2 ^ 24 := by
  cases n with
  | w1 => exact zero_append_toNat (m := 24) (rd o)
  | w2 =>
    have h : assemble rd o .w2 = 0#16 ++ (rd (o + 1) ++ rd o : Half) := BitVec.append_assoc (x₁ := 0#16)
    rw [h, zero_append_toNat, half_toNat, Nat.add_comm]
  | w4 =>
    show (rd (o + 3) ++ rd (o + 2) ++ rd (o + 1) ++ rd o : Word).toNat = _
    rw [word_toNat]; dsimp only; omega

/-- What a placed field reads: its bits of the value at its place, 0 where that leaves VRAM. -/
theorem m0Field_eq (L : Config.Mode0Layout) (vram : Memory Byte) (f : Config.M0Field) : m0Field L vram f =
    if (L.place f).off + widthBytes (L.place f).n ≤ Config.vramSize then
      (assemble (Memory.read 0 vram) (L.place f).off (L.place f).n).toNat / 2 ^ (L.place f).lo % 2 ^ (L.place f).len
    else 0 := by
  simp only [m0Field, m0Read, memRead]
  by_cases h : (L.place f).off + widthBytes (L.place f).n ≤ Config.vramSize
  · rw [if_pos h, if_pos ((inRange_iff _ _ _).2 ⟨Int.natCast_nonneg _, by omega⟩)]; rfl
  · rw [if_neg h, if_neg (fun e => h (by have := (inRange_iff _ _ _).1 e; omega))]
    exact Eq.trans (congrArg (· % _) (Nat.zero_div _)) (Nat.zero_mod _)

/-- A number cut to `w` bits and read as two's complement. -/
theorem toInt_ofInt_eq (w : Nat) (v : Int) :
    (BitVec.ofInt w v).toInt = if 2 * (v % 2 ^ w) < 2 ^ w then v % 2 ^ w else v % 2 ^ w - 2 ^ w := by
  rw [BitVec.toInt_ofInt, Int.bmod]
  have e : ((2 ^ w : Nat) : Int) = 2 ^ w := by push_cast; rfl
  rw [e]
  have : (0:Int) < 2 ^ w := by positivity
  generalize (2:Int)^w = k at *
  split <;> split <;> omega

/-- `sext_w` of an unsigned value, as the cut of a signed one. -/
theorem sextN_eq (w : Nat) (v : Nat) : sextN w v = (BitVec.ofInt w v).toInt := by
  simp [sextN]

/-! ### Colours -/

theorem opaque_append (c : BitVec 24) : ((0xFF#8 ++ c : Word)).extractLsb' 24 8 = 0xFF := by
  apply BitVec.eq_of_toNat_eq
  rw [BitVec.extractLsb'_toNat, Nat.shiftRight_eq_div_pow, toNat_append_add]
  have := c.isLt
  simp
  omega

end Sys2Proof.Machine
end

