-- ==== Sys2Proof/Laws/Pixels.lean ====
section
/-! SUPPORT. What the pixel decoders and the fields of a background's control word give, said once over natural-number
coordinates. -/

namespace Sys2Proof.Machine

open Sys2Proof

theorem byte_eq_zero_iff (b : Byte) : b = 0 ↔ b.toNat = 0 :=
  ⟨fun h => by rw [h]; rfl, fun h => BitVec.eq_of_toNat_eq h⟩

/-! ### Colours -/

/-- Every colour the core makes is opaque (30_encoding.md R307). -/
theorem rgba_opaque (r g b : Byte) : (rgba r g b).extractLsb' 24 8 = 0xFF := by
  have e : rgba r g b = 0xFF#8 ++ ((b ++ g ++ r : BitVec 24)) := by
    apply BitVec.eq_of_toNat_eq
    unfold rgba
    rw [word_toNat, toNat_append_add, toNat_append_add, toNat_append_add]
    have := r.isLt; have := g.isLt; have := b.isLt
    simp
    omega
  rw [e, opaque_append]

/-- No colour the core makes is the transparent word. -/
theorem rgba_ne_zero (r g b : Byte) : rgba r g b ≠ 0 := fun h => by
  have e := rgba_opaque r g b
  rw [h] at e
  exact absurd e (by decide)

/-! ### Decoders -/

/-- `dec4` (41_pixel_decoders.md R451) as a number. -/
theorem dec4_toNat (rd : Int → Byte) (ta px py : Nat) :
    (dec4 rd ta px py).toNat =
      if px % 2 = 0 then bitsN (rd ((ta + py * 4 + px / 2 : Nat) : Int)) 0 4
      else bitsN (rd ((ta + py * 4 + px / 2 : Nat) : Int)) 4 4 := by
  unfold dec4
  have e : (ta : Int) + py * 4 + px / 2 = ((ta + py * 4 + px / 2 : Nat) : Int) := by omega
  have h : ((px : Int) % 2 = 0) ↔ px % 2 = 0 := by omega
  simp only [e, h, setWidth_bits_toNat]
  split <;> simp only [BitVec.toNat_ofNat] <;>
    exact Nat.mod_eq_of_lt (Nat.lt_trans (bitsN_lt _ _ _) (by decide))

/-- `decode` (41_pixel_decoders.md R455) as a number. -/
theorem decodePixel_toNat (rd : Int → Byte) (ta px py : Int) (b8 : Bool) :
    (decodePixel rd ta px py b8).toNat =
      if b8 then (rd (ta + py * 8 + px)).toNat
      else if px % 2 = 0 then bitsN (rd (ta + py * 4 + px / 2)) 0 4 else bitsN (rd (ta + py * 4 + px / 2)) 4 4 := by
  unfold decodePixel dec8 dec4
  cases b8
  · simp only [Bool.false_eq_true, if_false, setWidth_bits_toNat]
    split <;> simp only [BitVec.toNat_ofNat] <;>
      exact Nat.mod_eq_of_lt (Nat.lt_trans (bitsN_lt _ _ _) (by decide))
  · rfl

/-- `dec8` (41_pixel_decoders.md R453). -/
theorem dec8_eq (rd : Int → Byte) (ta px py : Nat) : dec8 rd ta px py = rd ((ta + py * 8 + px : Nat) : Int) := by
  unfold dec8; congr 1

/-- `fetch` (41_pixel_decoders.md R456) as a number. -/
theorem fetchPixel_toNat (rd : Int → Byte) (ta px py : Nat) (hf vf b8 : Bool) (hx : px < 8) (hy : py < 8) :
    (fetchPixel rd ta px py hf vf b8).toNat =
      let x := if hf then 7 - px else px
      let y := if vf then 7 - py else py
      if b8 then (rd ((ta + y * 8 + x : Nat) : Int)).toNat
      else if x % 2 = 0 then bitsN (rd ((ta + y * 4 + x / 2 : Nat) : Int)) 0 4
      else bitsN (rd ((ta + y * 4 + x / 2 : Nat) : Int)) 4 4 := by
  extract_lets x y
  have e : flipPoint px py hf vf 8 8 = ((x : Int), (y : Int)) := by
    unfold flipPoint
    cases hf <;> cases vf <;> simp [x, y] <;> omega
  unfold fetchPixel decodePixel
  rw [e]
  cases b8
  · simp only [Bool.false_eq_true, if_false]; rw [dec4_toNat]
  · simp only [if_true]; rw [dec8_eq]

/-! ### Text maps -/

/-- Map width and height by the size bits (43_text_bg.md R551). -/
theorem textMapW_eq (w : Half) : textMapW (bitsN w 14 2) = ((if bit w 14 then 64 else 32 : Nat) : Int) := by
  rw [bitsN_two]; cases bit w 14 <;> cases bit w 15 <;> rfl

theorem textMapH_eq (w : Half) : textMapH (bitsN w 14 2) = ((if bit w 15 then 64 else 32 : Nat) : Int) := by
  rw [bitsN_two]; cases bit w 14 <;> cases bit w 15 <;> rfl

/-- The screen-block address (43_text_bg.md R552) over natural numbers. -/
theorem screenBlockAddr_eq (sb mapW col row : Nat) :
    screenBlockAddr sb mapW col row =
      ((sb + (col / 32 + row / 32 * (mapW / 32)) * 0x800 + (row % 32 * 32 + col % 32) * 2 : Nat) : Int) := by
  unfold screenBlockAddr; push_cast; rfl

/-! ### Affine lines -/

/-- The cursor of an affine line after `x` columns: a step of `(pa, pc)` on every column (44_affine_bg.md R603). -/
theorem cursor_iterate (pa pc : Int) (p : Int × Int) (x : Nat) :
    (fun p : Int × Int => (p.1 + pa, p.2 + pc))^[x] p = (cursorAt p.1 pa x, cursorAt p.2 pc x) := by
  induction x with
  | zero => simp [cursorAt]
  | succ x ih => rw [Function.iterate_succ_apply', ih]; simp [cursorAt, Int.mul_add, Int.add_assoc]

end Sys2Proof.Machine
end

