-- ==== Sys2Proof/Laws/Compose.lean ====
section
/-! SUPPORT. What the composer's parts give, said once: windows, channels, colour math, contributors. -/

namespace Sys2Proof.Machine

open Sys2Proof

/-! ### Windows -/

/-- `in_win` (46_compositor.md R722) as one condition: an inverted or too large rectangle holds no pixel. -/
theorem inWin_iff (x1 x2 y1 y2 x y w hs : Int) :
    inWin x1 x2 y1 y2 x y w hs = true ↔ x1 ≤ x ∧ x < x2 ∧ x2 ≤ w ∧ y1 ≤ y ∧ y < y2 ∧ y2 ≤ hs := by
  unfold inWin
  split
  · constructor
    · intro h; cases h
    · intro h; omega
  · simp only [decide_eq_true_eq]; omega

/-! ### Channels -/

/-- The four channels of a pixel (00_scope.md R17). -/
theorem rgba_channels (r g b : Byte) :
    bitsN (rgba r g b) 0 8 = r.toNat ∧ bitsN (rgba r g b) 8 8 = g.toNat ∧ bitsN (rgba r g b) 16 8 = b.toNat ∧
    bitsN (rgba r g b) 24 8 = 255 := by
  simp only [bitsN_eq]
  unfold rgba
  rw [word_toNat]
  have := r.isLt; have := g.isLt; have := b.isLt
  simp
  omega

theorem opaquePixel_toNat (w : Word) : (opaquePixel w).toNat = 0xFF000000 + w.toNat % 2 ^ 24 := by
  unfold opaquePixel
  have h : (0xFF#8 ++ bits w 0 24 : Word).toNat = (0xFF#8).toNat * 2 ^ 24 + (bits w 0 24).toNat := toNat_append_add _ _
  have h2 : (bits w 0 24).toNat = w.toNat % 2 ^ 24 := by simp [bits]
  rw [h, h2]
  simp

theorem opaquePixel_alpha (w : Word) : bitsN (opaquePixel w) 24 8 = 0xFF := by rw [bitsN_eq, opaquePixel_toNat]; omega

theorem opaquePixel_rgb (w : Word) : bitsN (opaquePixel w) 0 24 = bitsN w 0 24 := by
  rw [bitsN_eq, bitsN_eq, opaquePixel_toNat]; omega

theorem opaquePixel_channel (w : Word) (k : Nat) (hk : k < 3) :
    bitsN (opaquePixel w) (8 * k) 8 = bitsN w (8 * k) 8 := by
  rw [bitsN_eq, bitsN_eq, opaquePixel_toNat]
  rcases (by omega : k = 0 ∨ k = 1 ∨ k = 2) with rfl | rfl | rfl <;> omega

/-- Each channel of `alpha(t, u)` (46_compositor.md R728). -/
theorem alpha_channel (bl : Blend) (t u : Word) (k : Nat) (hk : k < 3) :
    bitsN (alpha bl t u) (8 * k) 8 = min 255 ((bitsN t (8 * k) 8 * bl.eva + bitsN u (8 * k) 8 * bl.evb) / 16) := by
  obtain ⟨h0, h1, h2, _⟩ := rgba_channels (BitVec.ofNat 8 (alphaChannel bl.eva bl.evb (chanR t) (chanR u)))
    (BitVec.ofNat 8 (alphaChannel bl.eva bl.evb (chanG t) (chanG u)))
    (BitVec.ofNat 8 (alphaChannel bl.eva bl.evb (chanB t) (chanB u)))
  have hl : ∀ a b, (BitVec.ofNat 8 (alphaChannel bl.eva bl.evb a b)).toNat = alphaChannel bl.eva bl.evb a b := by
    intro a b
    rw [BitVec.toNat_ofNat]; apply Nat.mod_eq_of_lt; unfold alphaChannel; omega
  rw [hl] at h0 h1 h2
  rcases (by omega : k = 0 ∨ k = 1 ∨ k = 2) with rfl | rfl | rfl
  · exact h0
  · exact h1
  · exact h2

/-- Each channel of a pixel whose channels are mapped inside a byte. -/
theorem mapChannels_channel (f : Nat → Nat) (hf : ∀ c, c < 256 → f c < 256) (t : Word) (k : Nat) (hk : k < 3) :
    bitsN (mapChannels f t) (8 * k) 8 = f (bitsN t (8 * k) 8) := by
  obtain ⟨h0, h1, h2, _⟩ :=
    rgba_channels (BitVec.ofNat 8 (f (chanR t))) (BitVec.ofNat 8 (f (chanG t))) (BitVec.ofNat 8 (f (chanB t)))
  have hl : ∀ a, a < 256 → (BitVec.ofNat 8 (f a)).toNat = f a := by
    intro a ha
    rw [BitVec.toNat_ofNat]; exact Nat.mod_eq_of_lt (hf a ha)
  rw [hl (chanR t) (bitsN_lt t 0 8)] at h0
  rw [hl (chanG t) (bitsN_lt t 8 8)] at h1
  rw [hl (chanB t) (bitsN_lt t 16 8)] at h2
  rcases (by omega : k = 0 ∨ k = 1 ∨ k = 2) with rfl | rfl | rfl
  · exact h0
  · exact h1
  · exact h2

/-- A brightened channel stays inside a byte (46_compositor.md R729). -/
theorem brightenChannel_lt (evy : Nat) (h : evy ≤ 16) (c : Nat) (hc : c < 256) : brightenChannel evy c < 256 := by
  unfold brightenChannel
  have : (255 - c) * evy / 16 ≤ 255 - c := by
    apply Nat.div_le_of_le_mul
    rw [Nat.mul_comm 16]
    exact Nat.mul_le_mul_left _ h
  omega

theorem darkenChannel_lt (evy c : Nat) (hc : c < 256) : darkenChannel evy c < 256 := by unfold darkenChannel; omega

/-! ### Colour math -/

/-- The target sets of a `BLDCNT` word (46_compositor.md R727), layer by layer. -/
theorem inSet_first (cnt : Half) (l : Layer) : inSet (bits cnt 0 6) l = bit cnt (layerNum l) := by
  cases l <;> simp [inSet, bit, bits, layerNum]

theorem inSet_second (cnt : Half) (l : Layer) : inSet (bits cnt 8 6) l = bit cnt (8 + layerNum l) := by
  cases l <;> simp [inSet, bit, bits, layerNum]

/-- The row of BLDCNT's effect computes what the switch of 46_compositor.md R731 computes. -/
theorem exec_effectRow (s : State) (top : Contributor) (bot : Option Contributor) :
    exec (effectRow s.bldcnt top bot) s =
      .next (s.give (.colour (opaquePixel (effectOut (gbaBlend s s.bldcnt) top bot)))) := by
  unfold effectRow effectOut
  have h : (gbaBlend s s.bldcnt).effect.toNat = 2 * (bit s.bldcnt 7).toNat + (bit s.bldcnt 6).toNat := bitsN_two s.bldcnt 6
  rw [h]
  have e7 : s.bldcnt.getLsbD 7 = bit s.bldcnt 7 := rfl
  have e6 : s.bldcnt.getLsbD 6 = bit s.bldcnt 6 := rfl
  rw [e7, e6]
  cases bit s.bldcnt 7 <;> cases bit s.bldcnt 6 <;> rfl

/-! ### Contributors -/

theorem layerNum_bgLayer (b : Nat) (hb : b < 4) : layerNum (bgLayer b) = b := by
  rcases (by omega : b = 0 ∨ b = 1 ∨ b = 2 ∨ b = 3) with rfl | rfl | rfl | rfl <;> rfl

/-- What a priority class holds (46_compositor.md R725). -/
theorem mem_classContributors (en : BitVec 6) (spr : SprCol) (bg : Nat → BgCol) (p : Byte) (c : Contributor) :
    c ∈ classContributors en spr bg p ↔
      (c = ⟨.obj, spr.colour, spr.semi⟩ ∧ bit en 4 = true ∧ spr.colour ≠ 0 ∧ spr.prio = p) ∨
      ∃ b : Nat, b < 4 ∧ c = ⟨bgLayer b, (bg b).colour, false⟩ ∧ bit en b = true ∧ (bg b).colour ≠ 0 ∧
        (bg b).prio = p := by
  unfold classContributors
  rw [List.mem_append]
  apply or_congr
  · split
    · next h =>
      simp only [Bool.and_eq_true, decide_eq_true_eq] at h
      rw [List.mem_singleton]
      exact ⟨fun e => ⟨e, h.1.1, h.1.2, h.2⟩, fun e => e.1⟩
    · next h =>
      simp only [Bool.and_eq_true, decide_eq_true_eq] at h
      exact ⟨fun e => absurd e List.not_mem_nil, fun e => absurd ⟨⟨e.2.1, e.2.2.1⟩, e.2.2.2⟩ h⟩
  · simp only [List.mem_map, List.mem_filter, List.mem_range, Bool.and_eq_true, decide_eq_true_eq]
    have hb : ∀ b, b < 4 → inSet en (bgLayer b) = bit en b := fun b hb => by
      rw [inSet, layerNum_bgLayer b hb]
    constructor
    · rintro ⟨b, ⟨h1, ⟨h2, h3⟩, h4⟩, rfl⟩
      exact ⟨b, h1, rfl, by rw [← hb b h1]; exact h2, h3, h4⟩
    · rintro ⟨b, h1, rfl, h2, h3, h4⟩
      exact ⟨b, ⟨h1, ⟨by rw [hb b h1]; exact h2, h3⟩, h4⟩, rfl⟩

end Sys2Proof.Machine
end

