-- ==== Sys2Proof/Laws/Decode.lean ====
section
/-! SUPPORT. Laws of the decoder's parts: how a parser runs, and that each operand's reader gives back what its writer wrote. -/

namespace Sys2Proof

/-! ### How a parser runs -/

@[simp] theorem Parser.pure_run {α : Type} (a : α) (bs : List Byte) : (pure a : Parser α) bs = .ok (a, bs) := rfl

@[simp] theorem Parser.throw_run {α : Type} (e : DecodeError) (bs : List Byte) :
    (throw e : Parser α) bs = .error e := rfl

/-- Two parsers one after the other. -/
theorem Parser.bind_run {α β : Type} (p : Parser α) (f : α → Parser β) (bs : List Byte) :
    (p >>= f) bs = match p bs with
      | .ok (a, r) => f a r
      | .error e => .error e := by
  show (do let (a, r) ← p bs; f a r) = _
  cases p bs with
  | error e => rfl
  | ok v => rfl

/-- A parser whose value is then changed. -/
theorem Parser.map_run {α β : Type} (f : α → β) (p : Parser α) (bs : List Byte) :
    (f <$> p) bs = match p bs with
      | .ok (a, r) => .ok (f a, r)
      | .error e => .error e := by
  show (do let (a, r) ← p bs; pure (f a, r)) = _
  cases p bs with
  | error e => rfl
  | ok v => rfl

/-- The second parser runs on what the first one leaves. -/
theorem Parser.bind_ok {α β : Type} {p : Parser α} {bs r : List Byte} {a : α} (h : p bs = .ok (a, r)) (f : α → Parser β) :
    (p >>= f) bs = f a r := by rw [Parser.bind_run, h]

/-- What a parser of two parts has read. -/
theorem Parser.of_bind_ok {α β : Type} {p : Parser α} {f : α → Parser β} {bs r : List Byte} {b : β}
    (h : (p >>= f) bs = .ok (b, r)) : ∃ a r', p bs = .ok (a, r') ∧ f a r' = .ok (b, r) := by
  rw [Parser.bind_run] at h
  split at h
  · next a r' e => exact ⟨a, r', e, h⟩
  · cases h

/-! ### Readers and writers -/

@[simp] theorem takeByte_cons (b : Byte) (r : List Byte) : takeByte (b :: r) = .ok (b, r) := rfl

@[simp] theorem takeHalf_put (v : Half) (r : List Byte) : takeHalf (putHalf v ++ r) = .ok (v, r) := by
  have h : (v.extractLsb' 8 8 ++ v.extractLsb' 0 8 : Half) = v := by
    apply BitVec.eq_of_toNat_eq
    have := v.isLt
    rw [half_toNat]
    simp [Nat.shiftRight_eq_div_pow]
    omega
  show Except.ok ((v.extractLsb' 8 8 ++ v.extractLsb' 0 8 : Half), r) = _
  rw [h]

@[simp] theorem takeWord_put (v : Word) (r : List Byte) : takeWord (putWord v ++ r) = .ok (v, r) := by
  have h : (v.extractLsb' 24 8 ++ v.extractLsb' 16 8 ++ v.extractLsb' 8 8 ++ v.extractLsb' 0 8 : Word) = v := by
    apply BitVec.eq_of_toNat_eq
    have := v.isLt
    rw [word_toNat]
    simp [Nat.shiftRight_eq_div_pow]
    omega
  show Except.ok ((v.extractLsb' 24 8 ++ v.extractLsb' 16 8 ++ v.extractLsb' 8 8 ++ v.extractLsb' 0 8 : Word), r) = _
  rw [h]

@[simp] theorem takeBool_put (b : Bool) (r : List Byte) : takeBool (boolCode b :: r) = .ok (b, r) := by cases b <;> rfl
@[simp] theorem takeView_put (v : View) (r : List Byte) : takeView (viewCode v :: r) = .ok (v, r) := by cases v <;> rfl
@[simp] theorem takeRegion_put (v : Region) (r : List Byte) : takeRegion (regionCode v :: r) = .ok (v, r) := by
  cases v <;> rfl
@[simp] theorem takeWidth_put (v : Width) (r : List Byte) : takeWidth (widthCode v :: r) = .ok (v, r) := by cases v <;> rfl
@[simp] theorem takeLayer_put (v : Layer) (r : List Byte) : takeLayer (layerCode v :: r) = .ok (v, r) := by cases v <;> rfl

@[simp] theorem takeContributor_put (c : Contributor) (r : List Byte) :
    takeContributor (putContributor c ++ r) = .ok (c, r) := by
  simp [takeContributor, putContributor, Parser.bind_run, Parser.map_run]

@[simp] theorem takeOptContributor_put (c : Option Contributor) (r : List Byte) :
    takeOptContributor (putOptContributor c ++ r) = .ok (c, r) := by
  cases c with
  | none => rfl
  | some c =>
    have h : takeBool (1#8 :: (putContributor c ++ r)) = .ok (true, putContributor c ++ r) := takeBool_put true _
    simp [takeOptContributor, putOptContributor, Parser.bind_run, Parser.map_run, h]

@[simp] theorem takeBytes_put (l r : List Byte) : takeBytes l.length (l ++ r) = .ok (l, r) := by
  induction l with
  | nil => rfl
  | cons b l ih => simp [takeBytes, Parser.bind_run, Parser.map_run, ih]

@[simp] theorem takeHostOp_put (op : HostOp) (r : List Byte) : takeHostOp (putHostOp op ++ r) = .ok (op, r) := by
  cases op <;> simp [takeHostOp, putHostOp, Parser.bind_run, Parser.map_run]

/-! ### The decoder on a format byte, and selector bits -/

/-- The decoder runs the format its first byte names and keeps what is well formed. -/
theorem decode_cons (tag : Byte) (bs : List Byte) : decode (tag :: bs) =
    match parseFormat tag.toNat bs with
    | .ok (i, rest) => if i.wellFormed then .ok (i, rest) else .error .illFormed
    | .error e => .error e := by
  unfold decode parse
  rw [Parser.bind_run]
  rfl

/-- A selector of one bit is the bit. -/
theorem selBits_one {n : Nat} (w : BitVec n) (i : Nat) : selBits w i 1 = (w.getLsbD i).toNat := by
  rw [selBits, BitVec.extractLsb'_toNat, Nat.shiftRight_eq_div_pow, ← BitVec.testBit_toNat,
    Nat.testBit_eq_decide_div_mod_eq]
  rcases Nat.mod_two_eq_zero_or_one (w.toNat / 2 ^ i) with h | h <;> simp [h]

/-- A selector of two bits is the pair. -/
theorem selBits_two {n : Nat} (w : BitVec n) (lo : Nat) :
    selBits w lo 2 = 2 * (w.getLsbD (lo + 1)).toNat + (w.getLsbD lo).toNat := by
  have e : w.toNat / 2 ^ (lo + 1) = w.toNat / 2 ^ lo / 2 := by rw [Nat.pow_succ, Nat.div_div_eq_div_mul]
  rw [selBits, BitVec.extractLsb'_toNat, Nat.shiftRight_eq_div_pow, ← BitVec.testBit_toNat, ← BitVec.testBit_toNat,
    Nat.testBit_eq_decide_div_mod_eq, Nat.testBit_eq_decide_div_mod_eq, e]
  generalize w.toNat / 2 ^ lo = k
  rcases Nat.mod_two_eq_zero_or_one k with h | h <;> rcases Nat.mod_two_eq_zero_or_one (k / 2) with h' | h' <;>
    simp [h, h'] <;> omega

end Sys2Proof
end

