-- ==== Sys2Proof/Laws/PerInstr.lean ====
section
/-! SUPPORT. What holds of every instruction as syntax, one lemma per constructor. `EncodeLength`: a well-formed command takes
between 1 and 16 bytes of the port. -/

namespace Sys2Proof.Laws

open Sys2Proof

/-- A well-formed instruction is encoded in at least one byte and at most sixteen (assumption 2). -/
def EncodeLength.Statement (i : Instr) : Prop :=
  i.wellFormed = true → 1 ≤ (encode i).length ∧ (encode i).length ≤ 16

theorem putHalf_length (v : Half) : (putHalf v).length = 2 := rfl

theorem putWord_length (v : Word) : (putWord v).length = 4 := rfl

theorem putContributor_length (c : Contributor) : (putContributor c).length = 6 := rfl

theorem putOptContributor_length (c : Option Contributor) : (putOptContributor c).length ≤ 7 := by
  cases c
  · exact (by decide : 1 ≤ 7)
  · exact Nat.le_refl 7

theorem putEffectOp_length (w : Half) (top : Contributor) (bot : Option Contributor) :
    1 ≤ (putEffectOp w top bot).length ∧ (putEffectOp w top bot).length ≤ 16 := by
  have h := putOptContributor_length bot
  simp only [putEffectOp, List.length_append, putHalf_length, putContributor_length, List.length_cons, List.length_nil]
  omega

theorem putHostOp_length (op : HostOp) : (putHostOp op).length ≤ 12 := by cases op <;> exact Nat.le_of_ble_eq_true rfl

namespace EncodeLength

theorem readU8 : ∀ v off, Statement (.readU8 v off) :=
  fun _ _ _ => ⟨Nat.le_of_ble_eq_true rfl, Nat.le_of_ble_eq_true rfl⟩

theorem readU16Le : ∀ v off, Statement (.readU16Le v off) :=
  fun _ _ _ => ⟨Nat.le_of_ble_eq_true rfl, Nat.le_of_ble_eq_true rfl⟩

theorem readU32Le : ∀ v off, Statement (.readU32Le v off) :=
  fun _ _ _ => ⟨Nat.le_of_ble_eq_true rfl, Nat.le_of_ble_eq_true rfl⟩

theorem hostWrite : ∀ op, Statement (.hostWrite op) :=
  fun op _ => ⟨Nat.succ_le_succ (Nat.zero_le _), Nat.succ_le_succ (Nat.le_trans (putHostOp_length op) (by decide))⟩

theorem hostRead : ∀ r off n, Statement (.hostRead r off n) :=
  fun _ _ _ _ => ⟨Nat.le_of_ble_eq_true rfl, Nat.le_of_ble_eq_true rfl⟩

theorem getFramebuffer : Statement .getFramebuffer := fun _ => ⟨Nat.le_of_ble_eq_true rfl, Nat.le_of_ble_eq_true rfl⟩

theorem dec4 : ∀ v ta px py, Statement (.dec4 v ta px py) :=
  fun _ _ _ _ _ => ⟨Nat.le_of_ble_eq_true rfl, Nat.le_of_ble_eq_true rfl⟩

theorem dec8 : ∀ v ta px py, Statement (.dec8 v ta px py) :=
  fun _ _ _ _ _ => ⟨Nat.le_of_ble_eq_true rfl, Nat.le_of_ble_eq_true rfl⟩

theorem decDmg : ∀ ta px py, Statement (.decDmg ta px py) :=
  fun _ _ _ _ => ⟨Nat.le_of_ble_eq_true rfl, Nat.le_of_ble_eq_true rfl⟩

theorem decode : ∀ v ta px py bpp8, Statement (.decode v ta px py bpp8) :=
  fun _ _ _ _ _ _ => ⟨Nat.le_of_ble_eq_true rfl, Nat.le_of_ble_eq_true rfl⟩

theorem fetch : ∀ v ta px py hf vf bpp8, Statement (.fetch v ta px py hf vf bpp8) :=
  fun _ _ _ _ _ _ _ _ => ⟨Nat.le_of_ble_eq_true rfl, Nat.le_of_ble_eq_true rfl⟩

theorem flipNone : ∀ px py wpx hpx, Statement (.flipNone px py wpx hpx) :=
  fun _ _ _ _ _ => ⟨Nat.le_of_ble_eq_true rfl, Nat.le_of_ble_eq_true rfl⟩

theorem flipH : ∀ px py wpx hpx, Statement (.flipH px py wpx hpx) :=
  fun _ _ _ _ _ => ⟨Nat.le_of_ble_eq_true rfl, Nat.le_of_ble_eq_true rfl⟩

theorem flipV : ∀ px py wpx hpx, Statement (.flipV px py wpx hpx) :=
  fun _ _ _ _ _ => ⟨Nat.le_of_ble_eq_true rfl, Nat.le_of_ble_eq_true rfl⟩

theorem flipHV : ∀ px py wpx hpx, Statement (.flipHV px py wpx hpx) :=
  fun _ _ _ _ _ => ⟨Nat.le_of_ble_eq_true rfl, Nat.le_of_ble_eq_true rfl⟩

theorem rgb555ToRgba : ∀ c, Statement (.rgb555ToRgba c) :=
  fun _ _ => ⟨Nat.le_of_ble_eq_true rfl, Nat.le_of_ble_eq_true rfl⟩

theorem dmgShade : ∀ p idx, Statement (.dmgShade p idx) :=
  fun _ _ _ => ⟨Nat.le_of_ble_eq_true rfl, Nat.le_of_ble_eq_true rfl⟩

theorem rgb888ToRgba : ∀ r g b, Statement (.rgb888ToRgba r g b) :=
  fun _ _ _ _ => ⟨Nat.le_of_ble_eq_true rfl, Nat.le_of_ble_eq_true rfl⟩

theorem textBgLine : ∀ b y, Statement (.textBgLine b y) :=
  fun _ _ _ => ⟨Nat.le_of_ble_eq_true rfl, Nat.le_of_ble_eq_true rfl⟩

theorem affineBgLineWrap : ∀ cnt n y, Statement (.affineBgLineWrap cnt n y) :=
  fun _ _ _ _ => ⟨Nat.le_of_ble_eq_true rfl, Nat.le_of_ble_eq_true rfl⟩

theorem affineBgLineClip : ∀ cnt n y, Statement (.affineBgLineClip cnt n y) :=
  fun _ _ _ _ => ⟨Nat.le_of_ble_eq_true rfl, Nat.le_of_ble_eq_true rfl⟩

theorem spriteLine : ∀ y, Statement (.spriteLine y) :=
  fun _ _ => ⟨Nat.le_of_ble_eq_true rfl, Nat.le_of_ble_eq_true rfl⟩

theorem spriteNormal : ∀ a0 a1 a2 y, Statement (.spriteNormal a0 a1 a2 y) :=
  fun _ _ _ _ _ => ⟨Nat.le_of_ble_eq_true rfl, Nat.le_of_ble_eq_true rfl⟩

theorem spriteAffine : ∀ a0 a1 a2 y, Statement (.spriteAffine a0 a1 a2 y) :=
  fun _ _ _ _ _ => ⟨Nat.le_of_ble_eq_true rfl, Nat.le_of_ble_eq_true rfl⟩

theorem spriteAffineDbl : ∀ a0 a1 a2 y, Statement (.spriteAffineDbl a0 a1 a2 y) :=
  fun _ _ _ _ _ => ⟨Nat.le_of_ble_eq_true rfl, Nat.le_of_ble_eq_true rfl⟩

theorem spriteHidden : ∀ a0 a1 a2 y, Statement (.spriteHidden a0 a1 a2 y) :=
  fun _ _ _ _ _ => ⟨Nat.le_of_ble_eq_true rfl, Nat.le_of_ble_eq_true rfl⟩

theorem omodeNormal : ∀ sx prio c, Statement (.omodeNormal sx prio c) :=
  fun _ _ _ _ => ⟨Nat.le_of_ble_eq_true rfl, Nat.le_of_ble_eq_true rfl⟩

theorem omodeSemi : ∀ sx prio c, Statement (.omodeSemi sx prio c) :=
  fun _ _ _ _ => ⟨Nat.le_of_ble_eq_true rfl, Nat.le_of_ble_eq_true rfl⟩

theorem omodeObjwin : ∀ sx, Statement (.omodeObjwin sx) :=
  fun _ _ => ⟨Nat.le_of_ble_eq_true rfl, Nat.le_of_ble_eq_true rfl⟩

theorem omodeHidden : ∀ sx, Statement (.omodeHidden sx) :=
  fun _ _ => ⟨Nat.le_of_ble_eq_true rfl, Nat.le_of_ble_eq_true rfl⟩

theorem objSizeSquare8x8 : ∀ affine dbl yRaw xRaw, Statement (.objSizeSquare8x8 affine dbl yRaw xRaw) :=
  fun _ _ _ _ _ => ⟨Nat.le_of_ble_eq_true rfl, Nat.le_of_ble_eq_true rfl⟩

theorem objSizeSquare16x16 : ∀ affine dbl yRaw xRaw, Statement (.objSizeSquare16x16 affine dbl yRaw xRaw) :=
  fun _ _ _ _ _ => ⟨Nat.le_of_ble_eq_true rfl, Nat.le_of_ble_eq_true rfl⟩

theorem objSizeSquare32x32 : ∀ affine dbl yRaw xRaw, Statement (.objSizeSquare32x32 affine dbl yRaw xRaw) :=
  fun _ _ _ _ _ => ⟨Nat.le_of_ble_eq_true rfl, Nat.le_of_ble_eq_true rfl⟩

theorem objSizeSquare64x64 : ∀ affine dbl yRaw xRaw, Statement (.objSizeSquare64x64 affine dbl yRaw xRaw) :=
  fun _ _ _ _ _ => ⟨Nat.le_of_ble_eq_true rfl, Nat.le_of_ble_eq_true rfl⟩

theorem objSizeWide16x8 : ∀ affine dbl yRaw xRaw, Statement (.objSizeWide16x8 affine dbl yRaw xRaw) :=
  fun _ _ _ _ _ => ⟨Nat.le_of_ble_eq_true rfl, Nat.le_of_ble_eq_true rfl⟩

theorem objSizeWide32x8 : ∀ affine dbl yRaw xRaw, Statement (.objSizeWide32x8 affine dbl yRaw xRaw) :=
  fun _ _ _ _ _ => ⟨Nat.le_of_ble_eq_true rfl, Nat.le_of_ble_eq_true rfl⟩

theorem objSizeWide32x16 : ∀ affine dbl yRaw xRaw, Statement (.objSizeWide32x16 affine dbl yRaw xRaw) :=
  fun _ _ _ _ _ => ⟨Nat.le_of_ble_eq_true rfl, Nat.le_of_ble_eq_true rfl⟩

theorem objSizeWide64x32 : ∀ affine dbl yRaw xRaw, Statement (.objSizeWide64x32 affine dbl yRaw xRaw) :=
  fun _ _ _ _ _ => ⟨Nat.le_of_ble_eq_true rfl, Nat.le_of_ble_eq_true rfl⟩

theorem objSizeTall8x16 : ∀ affine dbl yRaw xRaw, Statement (.objSizeTall8x16 affine dbl yRaw xRaw) :=
  fun _ _ _ _ _ => ⟨Nat.le_of_ble_eq_true rfl, Nat.le_of_ble_eq_true rfl⟩

theorem objSizeTall8x32 : ∀ affine dbl yRaw xRaw, Statement (.objSizeTall8x32 affine dbl yRaw xRaw) :=
  fun _ _ _ _ _ => ⟨Nat.le_of_ble_eq_true rfl, Nat.le_of_ble_eq_true rfl⟩

theorem objSizeTall16x32 : ∀ affine dbl yRaw xRaw, Statement (.objSizeTall16x32 affine dbl yRaw xRaw) :=
  fun _ _ _ _ _ => ⟨Nat.le_of_ble_eq_true rfl, Nat.le_of_ble_eq_true rfl⟩

theorem objSizeTall32x64 : ∀ affine dbl yRaw xRaw, Statement (.objSizeTall32x64 affine dbl yRaw xRaw) :=
  fun _ _ _ _ _ => ⟨Nat.le_of_ble_eq_true rfl, Nat.le_of_ble_eq_true rfl⟩

theorem objSizeReserved : ∀ size, Statement (.objSizeReserved size) :=
  fun _ _ => ⟨Nat.le_of_ble_eq_true rfl, Nat.le_of_ble_eq_true rfl⟩

theorem windowIn : ∀ h v x y w hs, Statement (.windowIn h v x y w hs) :=
  fun _ _ _ _ _ _ _ => ⟨Nat.le_of_ble_eq_true rfl, Nat.le_of_ble_eq_true rfl⟩

theorem windowEnables : ∀ x y, Statement (.windowEnables x y) :=
  fun _ _ _ => ⟨Nat.le_of_ble_eq_true rfl, Nat.le_of_ble_eq_true rfl⟩

theorem effectNone : ∀ bldcnt top bot, Statement (.effectNone bldcnt top bot) :=
  fun _ _ _ _ => putEffectOp_length _ _ _

theorem effectAlpha : ∀ bldcnt top bot, Statement (.effectAlpha bldcnt top bot) :=
  fun _ _ _ _ => putEffectOp_length _ _ _

theorem effectBrighten : ∀ bldcnt top bot, Statement (.effectBrighten bldcnt top bot) :=
  fun _ _ _ _ => putEffectOp_length _ _ _

theorem effectDarken : ∀ bldcnt top bot, Statement (.effectDarken bldcnt top bot) :=
  fun _ _ _ _ => putEffectOp_length _ _ _

theorem semiForcedAlpha : ∀ t bot, Statement (.semiForcedAlpha t bot) :=
  fun _ _ _ => ⟨Nat.le_of_ble_eq_true rfl, Nat.le_of_ble_eq_true rfl⟩

theorem composeLine : ∀ y, Statement (.composeLine y) :=
  fun _ _ => ⟨Nat.le_of_ble_eq_true rfl, Nat.le_of_ble_eq_true rfl⟩

theorem renderFrame : Statement .renderFrame := fun _ => ⟨Nat.le_of_ble_eq_true rfl, Nat.le_of_ble_eq_true rfl⟩

theorem renderFrameMode0 : Statement .renderFrameMode0 := fun _ => ⟨Nat.le_of_ble_eq_true rfl, Nat.le_of_ble_eq_true rfl⟩

theorem renderFrameGbaText : Statement .renderFrameGbaText := fun _ => ⟨Nat.le_of_ble_eq_true rfl, Nat.le_of_ble_eq_true rfl⟩

theorem renderFrameGbaMixed : Statement .renderFrameGbaMixed := fun _ => ⟨Nat.le_of_ble_eq_true rfl, Nat.le_of_ble_eq_true rfl⟩

theorem renderFrameDmg : Statement .renderFrameDmg := fun _ => ⟨Nat.le_of_ble_eq_true rfl, Nat.le_of_ble_eq_true rfl⟩

theorem renderFrameNop : ∀ mode, Statement (.renderFrameNop mode) :=
  fun _ _ => ⟨Nat.le_of_ble_eq_true rfl, Nat.le_of_ble_eq_true rfl⟩

theorem forcedBlankGba : ∀ dispcnt, Statement (.forcedBlankGba dispcnt) :=
  fun _ _ => ⟨Nat.le_of_ble_eq_true rfl, Nat.le_of_ble_eq_true rfl⟩

theorem forcedBlankFill : Statement .forcedBlankFill := fun _ => ⟨Nat.le_of_ble_eq_true rfl, Nat.le_of_ble_eq_true rfl⟩

theorem forcedBlankDmg : ∀ lcdc, Statement (.forcedBlankDmg lcdc) :=
  fun _ _ => ⟨Nat.le_of_ble_eq_true rfl, Nat.le_of_ble_eq_true rfl⟩

theorem forcedBlankMode0 : Statement .forcedBlankMode0 := fun _ => ⟨Nat.le_of_ble_eq_true rfl, Nat.le_of_ble_eq_true rfl⟩

theorem dmgTileUnsigned : ∀ lcdc t, Statement (.dmgTileUnsigned lcdc t) :=
  fun _ _ _ => ⟨Nat.le_of_ble_eq_true rfl, Nat.le_of_ble_eq_true rfl⟩

theorem dmgTileSigned : ∀ lcdc t, Statement (.dmgTileSigned lcdc t) :=
  fun _ _ _ => ⟨Nat.le_of_ble_eq_true rfl, Nat.le_of_ble_eq_true rfl⟩

theorem dmgObj8 : ∀ lcdc i, Statement (.dmgObj8 lcdc i) :=
  fun _ _ _ => ⟨Nat.le_of_ble_eq_true rfl, Nat.le_of_ble_eq_true rfl⟩

theorem dmgObj16 : ∀ lcdc i, Statement (.dmgObj16 lcdc i) :=
  fun _ _ _ => ⟨Nat.le_of_ble_eq_true rfl, Nat.le_of_ble_eq_true rfl⟩

theorem dmgSpriteEntry : ∀ b0 b1 b2 b3 x y, Statement (.dmgSpriteEntry b0 b1 b2 b3 x y) :=
  fun _ _ _ _ _ _ _ => ⟨Nat.le_of_ble_eq_true rfl, Nat.le_of_ble_eq_true rfl⟩

theorem dmgPixel : ∀ x y sel, Statement (.dmgPixel x y sel) :=
  fun _ _ _ h => by
  simp only [Instr.wellFormed, Bool.and_eq_true, decide_eq_true_eq] at h
  simp only [encode, List.length_append, List.length_cons, List.length_nil]
  omega

theorem m0BgText : ∀ b y, Statement (.m0BgText b y) :=
  fun _ _ _ => ⟨Nat.le_of_ble_eq_true rfl, Nat.le_of_ble_eq_true rfl⟩

theorem m0BgAffine : ∀ b y, Statement (.m0BgAffine b y) :=
  fun _ _ _ => ⟨Nat.le_of_ble_eq_true rfl, Nat.le_of_ble_eq_true rfl⟩

theorem m0SpriteLine : ∀ y, Statement (.m0SpriteLine y) :=
  fun _ _ => ⟨Nat.le_of_ble_eq_true rfl, Nat.le_of_ble_eq_true rfl⟩

theorem m0ComposeLine : ∀ y, Statement (.m0ComposeLine y) :=
  fun _ _ => ⟨Nat.le_of_ble_eq_true rfl, Nat.le_of_ble_eq_true rfl⟩

end EncodeLength

end Sys2Proof.Laws
end

