-- ==== Sys2Proof/Laws/Sprites.lean ====
section
/-! SUPPORT. What the sprite evaluator does to one column, said once. -/

namespace Sys2Proof.Machine

open Sys2Proof

/-- What a non-transparent texel does to its column, by the object-mode field (45_sprites.md R659, R660). -/
theorem SprCol.texel_eq (c : SprCol) (a0 : Half) (prio : Byte) (w : Word) :
    c.texel (objMode a0) prio w =
      if bitsN a0 10 2 = 2 then ⟨c.colour, c.prio, c.semi, true⟩
      else if bitsN a0 10 2 ≠ 3 ∧ (c.prio = 0xFF ∨ prio.toNat ≤ c.prio.toNat) then
        ⟨w, prio, decide (bitsN a0 10 2 = 1), c.objwin⟩
      else c := by
  rw [bitsN_two]
  unfold objMode
  have hle : prio ≤ c.prio ↔ prio.toNat ≤ c.prio.toNat := BitVec.le_def
  cases bit a0 10 <;> cases bit a0 11 <;> simp [SprCol.texel, SprCol.offer, SprCol.markWindow, hle]

/-- OBJ colour lookup (42_palette.md R502) over natural numbers. -/
theorem State.objColour_eq (s : State) (b8 : Bool) (pal : Nat) (idx : Byte) :
    s.objColour b8 pal idx =
      rgb555 (s.readU16 .objPltt ((2 * (if b8 then idx.toNat else pal * 16 + idx.toNat) : Nat) : Int)) := by
  unfold State.objColour State.objpal paletteIndex; cases b8 <;> simp

/-- The colour index of a texel (45_sprites.md R658, R661) as a number. -/
theorem spriteIndex_toNat (s : State) (a : ObjAttr) (w tx ty : Int) :
    (spriteIndex s a w tx ty).toNat =
      let k : Int := if a.bpp8 then 2 else 1
      let tn : Int := a.tile + (if bit (s.readU16 .io 0) 6 then (ty / 8 * (w / 8) + tx / 8) * k
        else ty / 8 * 32 + tx / 8 * k)
      let b4 := s.readU8 .vramGba (0x10000 + tn * 32 + ty % 8 * 4 + tx % 8 / 2)
      if a.bpp8 then (s.readU8 .vramGba (0x10000 + tn * 32 + ty % 8 * 8 + tx % 8)).toNat
      else if tx % 8 % 2 = 0 then bitsN b4 0 4 else bitsN b4 4 4 := by
  unfold spriteIndex
  rw [decodePixel_toNat]
  rfl

/-- What one sprite's texel (tx, ty) does to its column, from the raw attribute words. -/
theorem spriteTexelColumn (s : State) (a0 a1 a2 : Half) (w tx ty : Int) (old : SprCol) :
    (let idx := spriteIndex s (objAttr a0 a1 a2) w tx ty
      if idx = 0 then old
      else old.texel (objAttr a0 a1 a2).omode (objAttr a0 a1 a2).prio
        (s.objColour (objAttr a0 a1 a2).bpp8 (objAttr a0 a1 a2).pal idx)) =
    (let bpp8 := bit a0 13
      let prio := BitVec.ofNat 8 (bitsN a2 10 2)
      let k : Int := if bpp8 then 2 else 1
      let tn : Int := bitsN a2 0 10 + (if bit (s.readU16 .io 0) 6 then (ty / 8 * (w / 8) + tx / 8) * k
        else ty / 8 * 32 + tx / 8 * k)
      let b4 := s.readU8 .vramGba (0x10000 + tn * 32 + ty % 8 * 4 + tx % 8 / 2)
      let idx : Nat := if bpp8 then (s.readU8 .vramGba (0x10000 + tn * 32 + ty % 8 * 8 + tx % 8)).toNat
        else if tx % 8 % 2 = 0 then bitsN b4 0 4 else bitsN b4 4 4
      let colour := rgb555 (s.readU16 .objPltt ((2 * (if bpp8 then idx else bitsN a2 12 4 * 16 + idx) : Nat) : Int))
      if idx = 0 then old
      else if bitsN a0 10 2 = 2 then ⟨old.colour, old.prio, old.semi, true⟩
      else if bitsN a0 10 2 ≠ 3 ∧ (old.prio = 0xFF ∨ prio.toNat ≤ old.prio.toNat) then
        ⟨colour, prio, decide (bitsN a0 10 2 = 1), old.objwin⟩
      else old) := by
  extract_lets idx bpp8 prio k tn b4 idx' colour
  have e : idx.toNat = idx' := spriteIndex_toNat s (objAttr a0 a1 a2) w tx ty
  have e2 : s.objColour (objAttr a0 a1 a2).bpp8 (objAttr a0 a1 a2).pal idx = colour := by
    rw [State.objColour_eq, e]; rfl
  have e3 : (objAttr a0 a1 a2).prio = prio := setWidth_bits_toNat a2 10 2
  have e4 : (objAttr a0 a1 a2).omode = objMode a0 := rfl
  rw [e2, e3, e4, SprCol.texel_eq]
  simp only [byte_eq_zero_iff, e]

/-- A hidden sprite leaves every column (45_sprites.md R653). -/
theorem spriteColumn_hidden (s : State) (a : ObjAttr) (y sx : Int) (c : SprCol) : spriteColumn s .hidden a y sx c = c := by
  unfold spriteColumn
  split
  · rfl
  · dsimp only
    split <;> rfl

/-- Drawing a sprite over line buffers given column by column. -/
theorem drawSprite_buffer (s : State) (k : SpriteKind) (a : ObjAttr) (y : Nat) (f : Nat → SprCol) :
    let t := s.setSprLine (sprBuffer Config.gbaW f)
    t.setSprLine (drawSprite t k a y t.line) =
      s.setSprLine (sprBuffer Config.gbaW fun sx => spriteColumn s k a y sx (f sx)) := by
  intro t
  have e : drawSprite t k a y t.line = sprBuffer Config.gbaW fun sx => spriteColumn s k a y sx (f sx) := by
    unfold drawSprite
    refine sprBuffer_congr _ _ _ fun x hx => ?_
    have e : t.line.sprCol x = f x := by
      show Memory.read SprCol.empty (sprBuffer Config.gbaW f) x = _
      rw [sprBuffer_read, if_pos hx]
    rw [e]; rfl
  rw [e]; rfl

/-- The instruction of OAM entry `i` over line buffers given column by column. -/
theorem exec_spriteInstr (s : State) (y : Byte) (i : Nat) (f : Nat → SprCol) :
    exec (s.spriteInstr y i) (s.setSprLine (sprBuffer Config.gbaW f)) =
      .next (s.setSprLine (sprBuffer Config.gbaW fun sx => s.oamSprite i y.toNat sx (f sx))) := by
  unfold State.spriteInstr State.oamSprite
  generalize s.oam16 (4 * i) = a0
  unfold spriteRow spriteKind
  have e8 : a0.getLsbD 8 = bit a0 8 := rfl
  have e9 : a0.getLsbD 9 = bit a0 9 := rfl
  rw [e8, e9]
  cases h8 : bit a0 8 <;> cases h9 : bit a0 9 <;> simp only [h8, h9]
  · show Host.Outcome.next _ = _
    rw [drawSprite_buffer]
  · show Host.Outcome.next _ = _
    simp only [spriteColumn_hidden]
  · show Host.Outcome.next _ = _
    rw [drawSprite_buffer]
  · show Host.Outcome.next _ = _
    rw [drawSprite_buffer]

/-- The line buffers just created are those of empty columns. -/
theorem emptySprLine_eq (s : State) :
    ({ s with line := { s.line with spr := [] } } : State) =
      s.setSprLine (sprBuffer Config.gbaW fun _ => SprCol.empty) := by
  rw [sprBuffer_empty]; rfl

/-- An OAM entry either shows no colour at a column, or offers one colour there at one priority of 0 to 3. -/
theorem oamSprite_cases (s : State) (y : Byte) (i x : Nat) :
    (∀ c, (s.oamSprite i y.toNat x c).colour = c.colour ∧ (s.oamSprite i y.toNat x c).prio = c.prio ∧
      (s.oamSprite i y.toNat x c).semi = c.semi) ∨
    ∃ p w m, p.toNat < 4 ∧ w ≠ 0 ∧ ∀ c, s.oamSprite i y.toNat x c = c.offer p w m := by
  unfold State.oamSprite
  dsimp only
  generalize s.oam16 (4 * i) = a0
  generalize s.oam16 (4 * i + 1) = a1
  generalize s.oam16 (4 * i + 2) = a2
  unfold spriteColumn
  split
  · exact Or.inl fun c => ⟨rfl, rfl, rfl⟩
  · dsimp only
    split
    · split
      · exact Or.inl fun c => ⟨rfl, rfl, rfl⟩
      · split
        · exact Or.inl fun c => ⟨rfl, rfl, rfl⟩
        · have hw : ∀ i, s.objColour (objAttr a0 a1 a2).bpp8 (objAttr a0 a1 a2).pal i ≠ 0 := fun i => rgba_ne_zero _ _ _
          have hp : (objAttr a0 a1 a2).prio.toNat < 4 := by
            show ((bits a2 10 2).setWidth 8 : Byte).toNat < 4
            rw [BitVec.toNat_setWidth]
            have := (bits a2 10 2).isLt
            omega
          cases (objAttr a0 a1 a2).omode
          · exact Or.inr ⟨_, _, false, hp, hw _, fun c => rfl⟩
          · exact Or.inr ⟨_, _, true, hp, hw _, fun c => rfl⟩
          · exact Or.inl fun c => ⟨rfl, rfl, rfl⟩
          · exact Or.inl fun c => ⟨rfl, rfl, rfl⟩
    · exact Or.inl fun c => ⟨rfl, rfl, rfl⟩

/-- What a loop from entry `n - 1` down to entry 0 keeps. -/
theorem foldl_down_induction {α : Type} (P : Nat → α → Prop) (n : Nat) (f : Nat → α → α) (c : α) (h0 : P n c)
    (hs : ∀ i c, i < n → P (i + 1) c → P i (f i c)) : P 0 ((List.range n).reverse.foldl (fun c i => f i c) c) := by
  induction n generalizing c with
  | zero => exact h0
  | succ n ih =>
    rw [List.range_succ, List.reverse_append]
    simp only [List.reverse_cons, List.reverse_nil, List.nil_append, List.cons_append, List.foldl_cons]
    exact ih _ (hs n c (by omega) h0) fun i c hi => hs i c (by omega)

end Sys2Proof.Machine
end

