-- ==== Sys2Proof/Tests/Slice0.lean ====
section
/-! SUPPORT. Tests: ill-formed terms refused, one word per constructor decoded, the vectors of spec/95_test_vectors.md run through
`exec`, and for every obligation with hypotheses a state and operands that meet them. Expected values are those of the spec's
vectors, or worked out from its rules by hand. -/

namespace Sys2Proof.Tests

open Sys2Proof Sys2Proof.Machine

/-! ### Ill-formed terms are refused -/

theorem test_wf_refuses_tileCoord :
    Instr.wellFormed (.dec4 .vramGba 0 8 0) = false ∧
    Instr.wellFormed (.dec8 .vramGba 0 0 8) = false ∧
    Instr.wellFormed (.decDmg 0 8 7) = false ∧
    Instr.wellFormed (.decode .oam 0 8 0 true) = false ∧
    Instr.wellFormed (.fetch .io 0 0 8 true true false) = false := by decide
theorem test_wf_refuses_flipExtent :
    Instr.wellFormed (.flipNone 8 0 8 8) = false ∧
    Instr.wellFormed (.flipH 0 8 8 8) = false ∧
    Instr.wellFormed (.flipV 16 0 16 32) = false ∧
    Instr.wellFormed (.flipHV 0 0 0 1) = false := by decide
theorem test_wf_refuses_dmgShade_slot :
    Instr.wellFormed (.dmgShade 0xE4 4) = false := by decide
theorem test_wf_refuses_textBg :
    Instr.wellFormed (.textBgLine 4 0) = false ∧
    Instr.wellFormed (.textBgLine 0 160) = false := by decide
theorem test_wf_refuses_affine_wrapBit :
    Instr.wellFormed (.affineBgLineWrap 0x0800 2 0) = false ∧
    Instr.wellFormed (.affineBgLineClip 0x2800 2 0) = false := by decide
theorem test_wf_refuses_affine_bgAndLine :
    Instr.wellFormed (.affineBgLineWrap 0x2800 1 0) = false ∧
    Instr.wellFormed (.affineBgLineClip 0x0800 4 0) = false ∧
    Instr.wellFormed (.affineBgLineClip 0x0800 3 160) = false := by decide
theorem test_wf_refuses_spriteLine :
    Instr.wellFormed (.spriteLine 160) = false := by decide
theorem test_wf_refuses_sprite_selector :
    Instr.wellFormed (.spriteNormal 0x0100 0 0 0) = false ∧
    Instr.wellFormed (.spriteAffine 0x0300 0 0 0) = false ∧
    Instr.wellFormed (.spriteAffineDbl 0x0200 0 0 0) = false ∧
    Instr.wellFormed (.spriteHidden 0x0000 0 0 0) = false := by decide
theorem test_wf_refuses_sprite_line :
    Instr.wellFormed (.spriteNormal 0 0 0 160) = false ∧
    Instr.wellFormed (.spriteHidden 0x0200 0 0 160) = false := by decide
theorem test_wf_refuses_candidate :
    Instr.wellFormed (.omodeNormal 240 0 0) = false ∧
    Instr.wellFormed (.omodeSemi 0 4 0) = false ∧
    Instr.wellFormed (.omodeObjwin 240) = false ∧
    Instr.wellFormed (.omodeHidden 255) = false := by decide
theorem test_wf_refuses_objSize_rawX :
    Instr.wellFormed (.objSizeSquare8x8 false false 0 512) = false ∧
    Instr.wellFormed (.objSizeWide64x32 true true 0 512) = false ∧
    Instr.wellFormed (.objSizeTall32x64 true true 0 0xFFFF) = false := by decide
theorem test_wf_refuses_objSize_reserved :
    Instr.wellFormed (.objSizeReserved 4) = false := by decide
theorem test_wf_refuses_windowEnables :
    Instr.wellFormed (.windowEnables 240 0) = false ∧
    Instr.wellFormed (.windowEnables 0 160) = false := by decide
theorem test_wf_refuses_effect_selector :
    Instr.wellFormed (.effectNone 0x40 ⟨.bg0, 0, false⟩ none) = false ∧
    Instr.wellFormed (.effectAlpha 0 ⟨.bg0, 0, false⟩ none) = false ∧
    Instr.wellFormed (.effectBrighten 0xC0 ⟨.bg0, 0, false⟩ none) = false ∧
    Instr.wellFormed (.effectDarken 0x80 ⟨.bg0, 0, false⟩ none) = false := by decide
theorem test_wf_refuses_semi_notSprite :
    Instr.wellFormed (.effectNone 0 ⟨.bg0, 0, true⟩ none) = false ∧
    Instr.wellFormed (.effectNone 0 ⟨.bg0, 0, false⟩ (some ⟨.bd, 0, true⟩)) = false ∧
    Instr.wellFormed (.semiForcedAlpha 0 ⟨.bg1, 0, true⟩) = false := by decide
theorem test_wf_refuses_composeLine :
    Instr.wellFormed (.composeLine 160) = false := by decide
theorem test_wf_refuses_renderNop_mode :
    Instr.wellFormed (.renderFrameNop 0) = false ∧
    Instr.wellFormed (.renderFrameNop 1) = false ∧
    Instr.wellFormed (.renderFrameNop 2) = false ∧
    Instr.wellFormed (.renderFrameNop 7) = false := by decide
theorem test_wf_refuses_forcedBlank :
    Instr.wellFormed (.forcedBlankGba 0xFF7F) = false ∧
    Instr.wellFormed (.forcedBlankDmg 0x80) = false := by decide
theorem test_wf_refuses_dmgTile_selector :
    Instr.wellFormed (.dmgTileUnsigned 0xEF 0) = false ∧
    Instr.wellFormed (.dmgTileSigned 0x10 0) = false := by decide
theorem test_wf_refuses_dmgObj :
    Instr.wellFormed (.dmgObj8 0x04 0) = false ∧
    Instr.wellFormed (.dmgObj16 0xFB 0) = false ∧
    Instr.wellFormed (.dmgObj8 0 40) = false ∧
    Instr.wellFormed (.dmgObj16 4 40) = false := by decide
theorem test_wf_refuses_dmgEntry :
    Instr.wellFormed (.dmgSpriteEntry 0 0 0 0 160 0) = false ∧
    Instr.wellFormed (.dmgSpriteEntry 0 0 0 0 0 144) = false := by decide
theorem test_wf_refuses_dmgPixel :
    Instr.wellFormed (.dmgPixel 160 0 []) = false ∧
    Instr.wellFormed (.dmgPixel 0 144 []) = false ∧
    Instr.wellFormed (.dmgPixel 0 0 [40]) = false ∧
    Instr.wellFormed (.dmgPixel 0 0 [0, 1, 2, 3, 4, 5, 6, 7, 8, 9, 10]) = false := by decide
theorem test_wf_refuses_m0 :
    Instr.wellFormed (.m0BgText 4 0) = false ∧
    Instr.wellFormed (.m0BgAffine 0 360) = false ∧
    Instr.wellFormed (.m0SpriteLine 360) = false ∧
    Instr.wellFormed (.m0ComposeLine 360) = false := by decide

/-! ### Words written out from the spec's encodings -/

theorem test_decode_readU8 : decode [0x00, 0x00, 0xFF, 0x7F, 0x01, 0x00] = .ok (.readU8 .vramGba 0x17FFF, []) := by decide
theorem test_decode_readU16Le : decode [0x01, 0x04, 0x50, 0x00, 0x00, 0x00] = .ok (.readU16Le .io 0x50, []) := by decide
theorem test_decode_readU32Le : decode [0x02, 0x04, 0x28, 0x00, 0x00, 0x00] = .ok (.readU32Le .io 0x28, []) := by decide
theorem test_decode_hostWrite :
    decode [0x03, 0x00, 0x01, 0x08, 0x00, 0x00, 0x00, 0x02, 0x04, 0x08, 0x00, 0x00] =
      .ok (.hostWrite (.store .io 0x08 .w2 0x0804), []) := by decide
theorem test_decode_hostWrite_fill :
    decode [0x03, 0x01, 0x00, 0x10, 0x00, 0x00, 0x00, 0x20, 0x01, 0x00, 0x00, 0xFF] =
      .ok (.hostWrite (.fill .vram 0x10 0x120 0xFF), []) := by decide
theorem test_decode_hostRead :
    decode [0x04, 0x05, 0xCC, 0x12, 0x00, 0x00, 0x04] =
      .ok (.hostRead .fb 0x12CC .w4, []) := by decide
theorem test_decode_getFramebuffer : decode [0x05] = .ok (.getFramebuffer, []) := by decide
theorem test_decode_dec4 :
    decode [0x80, 0b00000000, 0b00001000, 0x00, 0x20, 0x00, 0x00, 0x00, 3, 5] =
      .ok (.dec4 .vramGba 0x20 3 5, []) := by decide
theorem test_decode_dec8 :
    decode [0x80, 0b10000000, 0b00001000, 0x00, 0x40, 0x00, 0x00, 0x00, 3, 2] =
      .ok (.dec8 .vramGba 0x40 3 2, []) := by decide
theorem test_decode_dec8_attr0 :
    decode [0x81, 0b00000000, 0b00100000, 0x00, 0x40, 0x00, 0x00, 0x00, 3, 2] =
      .ok (.dec8 .vramGba 0x40 3 2, []) := by decide
theorem test_decode_decDmg : decode [0x08, 0x10, 0x00, 0x00, 0x00, 7, 1] = .ok (.decDmg 0x10 7 1, []) := by decide
theorem test_decode_decode :
    decode [0x09, 0x03, 0x40, 0x00, 0x00, 0x00, 1, 2, 1] =
      .ok (.decode .m0Tiles 0x40 1 2 true, []) := by decide
theorem test_decode_fetch :
    decode [0x0A, 0x00, 0x20, 0x00, 0x00, 0x00, 4, 5, 1, 0, 0] =
      .ok (.fetch .vramGba 0x20 4 5 true false false, []) := by decide
theorem test_decode_flipNone : decode [0x82, 0b00000000, 1, 0, 6, 0, 7, 0, 7, 0] = .ok (.flipNone 1 6 8 8, []) := by decide
theorem test_decode_flipH :
    decode [0x83, 0b00000001, 0b00000100, 1, 0, 6, 0, 7, 0, 7, 0] =
      .ok (.flipH 1 6 8 8, []) := by decide
theorem test_decode_flipH_dmg : decode [0x86, 0b00100000, 1, 0, 6, 0, 7, 0, 7, 0] = .ok (.flipH 1 6 8 8, []) := by decide
theorem test_decode_flipV :
    decode [0x85, 0b00000001, 0b00000000, 0b00000000, 0b00010000, 1, 0, 6, 0, 7, 0, 7, 0] =
      .ok (.flipV 1 6 8 8, []) := by decide
theorem test_decode_flipHV :
    decode [0x84, 0b00010100, 0b00110000, 3, 0, 0, 0, 15, 0, 31, 0] =
      .ok (.flipHV 3 0 16 32, []) := by decide
theorem test_decode_rgb555ToRgba : decode [0x0F, 0x94, 0x52] = .ok (.rgb555ToRgba 0x5294, []) := by decide
theorem test_decode_dmgShade : decode [0x10, 0xE4, 0x03] = .ok (.dmgShade 0xE4 3, []) := by decide
theorem test_decode_rgb888ToRgba : decode [0x11, 0x12, 0x34, 0x56] = .ok (.rgb888ToRgba 0x12 0x34 0x56, []) := by decide
theorem test_decode_textBgLine : decode [0x12, 1, 5] = .ok (.textBgLine 1 5, []) := by decide
theorem test_decode_affineBgLineWrap :
    decode [0x88, 0b00000000, 0b00101000, 0, 5] =
      .ok (.affineBgLineWrap 0x2800 2 5, []) := by decide
theorem test_decode_affineBgLineClip :
    decode [0x88, 0b00000000, 0b00001000, 1, 5] =
      .ok (.affineBgLineClip 0x0800 3 5, []) := by decide
theorem test_decode_spriteLine : decode [0x15, 10] = .ok (.spriteLine 10, []) := by decide
theorem test_decode_spriteNormal :
    decode [0x89, 0b00011110, 0b00000000, 0x28, 0x40, 0x04, 0x00, 30] =
      .ok (.spriteNormal 0x001E 0x4028 0x0004 30, []) := by decide
theorem test_decode_spriteAffine :
    decode [0x89, 0b00011110, 0b00000001, 0x28, 0x40, 0x04, 0x00, 30] =
      .ok (.spriteAffine 0x011E 0x4028 0x0004 30, []) := by decide
theorem test_decode_spriteAffineDbl :
    decode [0x89, 0b00011110, 0b00000011, 0x28, 0x40, 0x04, 0x00, 38] =
      .ok (.spriteAffineDbl 0x031E 0x4028 0x0004 38, []) := by decide
theorem test_decode_spriteHidden :
    decode [0x89, 0b00011110, 0b00000010, 0x28, 0x40, 0x04, 0x00, 30] =
      .ok (.spriteHidden 0x021E 0x4028 0x0004 30, []) := by decide
theorem test_decode_omodeNormal :
    decode [0x8A, 0b00111100, 0b00000000, 50, 1, 0xE0, 0x03] =
      .ok (.omodeNormal 50 1 0x03E0, []) := by decide
theorem test_decode_omodeSemi :
    decode [0x8A, 0b00111100, 0b00000100, 50, 1, 0xE0, 0x03] =
      .ok (.omodeSemi 50 1 0x03E0, []) := by decide
theorem test_decode_omodeObjwin : decode [0x8A, 0b00111100, 0b00001000, 50] = .ok (.omodeObjwin 50, []) := by decide
theorem test_decode_omodeHidden : decode [0x8A, 0b00000000, 0b00001100, 50] = .ok (.omodeHidden 50, []) := by decide
theorem test_decode_objSizeSquare8x8 :
    decode [0x8B, 0b0000, 1, 0, 0xFF, 0xF0, 0x01] =
      .ok (.objSizeSquare8x8 true false 0xFF 0x1F0, []) := by decide
theorem test_decode_objSizeSquare16x16 :
    decode [0x8B, 0b0001, 1, 0, 0xFF, 0xF0, 0x01] =
      .ok (.objSizeSquare16x16 true false 0xFF 0x1F0, []) := by decide
theorem test_decode_objSizeSquare32x32 :
    decode [0x8B, 0b0010, 1, 0, 0xFF, 0xF0, 0x01] =
      .ok (.objSizeSquare32x32 true false 0xFF 0x1F0, []) := by decide
theorem test_decode_objSizeSquare64x64 :
    decode [0x8B, 0b0011, 1, 0, 0xFF, 0xF0, 0x01] =
      .ok (.objSizeSquare64x64 true false 0xFF 0x1F0, []) := by decide
theorem test_decode_objSizeWide16x8 :
    decode [0x8B, 0b0100, 1, 0, 0xFF, 0xF0, 0x01] =
      .ok (.objSizeWide16x8 true false 0xFF 0x1F0, []) := by decide
theorem test_decode_objSizeWide32x8 :
    decode [0x8B, 0b0101, 1, 0, 0xFF, 0xF0, 0x01] =
      .ok (.objSizeWide32x8 true false 0xFF 0x1F0, []) := by decide
theorem test_decode_objSizeWide32x16 :
    decode [0x8B, 0b0110, 1, 0, 0xFF, 0xF0, 0x01] =
      .ok (.objSizeWide32x16 true false 0xFF 0x1F0, []) := by decide
theorem test_decode_objSizeWide64x32 :
    decode [0x8B, 0b0111, 1, 0, 0xFF, 0xF0, 0x01] =
      .ok (.objSizeWide64x32 true false 0xFF 0x1F0, []) := by decide
theorem test_decode_objSizeTall8x16 :
    decode [0x8B, 0b1000, 1, 0, 0xFF, 0xF0, 0x01] =
      .ok (.objSizeTall8x16 true false 0xFF 0x1F0, []) := by decide
theorem test_decode_objSizeTall8x32 :
    decode [0x8B, 0b1001, 1, 0, 0xFF, 0xF0, 0x01] =
      .ok (.objSizeTall8x32 true false 0xFF 0x1F0, []) := by decide
theorem test_decode_objSizeTall16x32 :
    decode [0x8B, 0b1010, 1, 0, 0xFF, 0xF0, 0x01] =
      .ok (.objSizeTall16x32 true false 0xFF 0x1F0, []) := by decide
theorem test_decode_objSizeTall32x64 :
    decode [0x8B, 0b1011, 1, 0, 0xFF, 0xF0, 0x01] =
      .ok (.objSizeTall32x64 true false 0xFF 0x1F0, []) := by decide
theorem test_decode_objSizeReserved : decode [0x8B, 0b1101] = .ok (.objSizeReserved 1, []) := by decide
theorem test_decode_windowIn :
    decode [0x2B, 0x14, 0x0A, 0x0F, 0x05, 10, 0, 5, 0, 0xF0, 0, 0xA0, 0] =
      .ok (.windowIn 0x0A14 0x050F 10 5 240 160, []) := by decide
theorem test_decode_windowEnables : decode [0x2C, 10, 5] = .ok (.windowEnables 10 5, []) := by decide
theorem test_decode_effectNone :
    decode [0x8C, 0b00000001, 0b00000010, 0, 0, 0xF8, 0x00, 0x00, 0xFF, 0] =
      .ok (.effectNone 0x0201 ⟨.bg0, 0xFF0000F8, false⟩ none, []) := by decide
theorem test_decode_effectAlpha :
    decode [0x8C, 0b01000001, 0b00000010, 0, 0, 0xF8, 0x00, 0x00, 0xFF, 1, 1, 0, 0x00, 0xF8, 0x00, 0xFF] =
      .ok (.effectAlpha 0x0241 ⟨.bg0, 0xFF0000F8, false⟩ (some ⟨.bg1, 0xFF00F800, false⟩), []) := by decide
theorem test_decode_effectBrighten :
    decode [0x8C, 0b10000001, 0b00000000, 4, 1, 0xF8, 0x00, 0x00, 0xFF, 0] =
      .ok (.effectBrighten 0x0081 ⟨.obj, 0xFF0000F8, true⟩ none, []) := by decide
theorem test_decode_effectDarken :
    decode [0x8C, 0b11000001, 0b00000000, 5, 0, 0xF8, 0x00, 0x00, 0xFF, 0] =
      .ok (.effectDarken 0x00C1 ⟨.bd, 0xFF0000F8, false⟩ none, []) := by decide
theorem test_decode_semiForcedAlpha :
    decode [0x31, 0x00, 0xF8, 0x00, 0xFF, 3, 0, 0xF8, 0x00, 0x00, 0xFF] =
      .ok (.semiForcedAlpha 0xFF00F800 ⟨.bg3, 0xFF0000F8, false⟩, []) := by decide
theorem test_decode_composeLine : decode [0x32, 60] = .ok (.composeLine 60, []) := by decide
theorem test_decode_renderFrame : decode [0x33] = .ok (.renderFrame, []) := by decide
theorem test_decode_renderFrameMode0 : decode [0x8D, 0x00, 0x00, 0x00, 0x00] = .ok (.renderFrameMode0, []) := by decide
theorem test_decode_renderFrameGbaText : decode [0x8D, 0x01, 0x00, 0x00, 0x00] = .ok (.renderFrameGbaText, []) := by decide
theorem test_decode_renderFrameGbaMixed : decode [0x8D, 0x02, 0x00, 0x00, 0x00] = .ok (.renderFrameGbaMixed, []) := by decide
theorem test_decode_renderFrameDmg : decode [0x8D, 0x07, 0x00, 0x00, 0x00] = .ok (.renderFrameDmg, []) := by decide
theorem test_decode_renderFrameNop :
    decode [0x8D, 0x01, 0x00, 0x00, 0x80] =
      .ok (.renderFrameNop 0x80000001, []) := by decide
theorem test_decode_forcedBlankGba : decode [0x8E, 0b10000000, 0b00000001] = .ok (.forcedBlankGba 0x0180, []) := by decide
theorem test_decode_forcedBlankFill : decode [0x3A] = .ok (.forcedBlankFill, []) := by decide
theorem test_decode_forcedBlankDmg : decode [0x8F, 0b00010001] = .ok (.forcedBlankDmg 0x11, []) := by decide
theorem test_decode_forcedBlankMode0 : decode [0x3C] = .ok (.forcedBlankMode0, []) := by decide
theorem test_decode_dmgTileUnsigned : decode [0x90, 0b10010001, 0x80] = .ok (.dmgTileUnsigned 0x91 0x80, []) := by decide
theorem test_decode_dmgTileSigned : decode [0x90, 0b10000001, 0x80] = .ok (.dmgTileSigned 0x81 0x80, []) := by decide
theorem test_decode_dmgObj8 : decode [0x91, 0b10000010, 39] = .ok (.dmgObj8 0x82 39, []) := by decide
theorem test_decode_dmgObj16 : decode [0x91, 0b10000110, 0] = .ok (.dmgObj16 0x86 0, []) := by decide
theorem test_decode_dmgSpriteEntry :
    decode [0x41, 36, 38, 2, 0x40, 30, 20] =
      .ok (.dmgSpriteEntry 36 38 2 0x40 30 20, []) := by decide
theorem test_decode_dmgPixel : decode [0x42, 80, 100, 2, 7, 1] = .ok (.dmgPixel 80 100 [7, 1], []) := by decide
theorem test_decode_m0BgText : decode [0x43, 2, 0x67, 0x01] = .ok (.m0BgText 2 359, []) := by decide
theorem test_decode_m0BgAffine : decode [0x44, 3, 0x09, 0x00] = .ok (.m0BgAffine 3 9, []) := by decide
theorem test_decode_m0SpriteLine : decode [0x45, 0x67, 0x01] = .ok (.m0SpriteLine 359, []) := by decide
theorem test_decode_m0ComposeLine : decode [0x46, 0x64, 0x00] = .ok (.m0ComposeLine 100, []) := by decide

theorem test_decode_rejects :
    decode [0x00, 0x00] = .error .truncated ∧ decode [0xFF] = .error .unknownFormat ∧
    decode [0x8E, 0x00, 0x00] = .error .unknownSelector ∧ decode [0x8B, 0b00010000] = .error .unknownSelector ∧
    decode [0x00, 0x08, 0, 0, 0, 0] = .error .badOperand ∧ decode [0x12, 4, 0] = .error .illFormed := by decide

/-! ### What each instruction does -/

/-- The state after host writes from reset. -/
def host (ops : List HostOp) : State := ops.foldl State.hostWrite State.reset

def w8 (r : Region) (o v : Word) : HostOp := .store r o .w1 v
def w16 (r : Region) (o v : Word) : HostOp := .store r o .w2 v
def w32 (r : Region) (o v : Word) : HostOp := .store r o .w4 v

/-- What `f` finds in the next state, if there is one. -/
def after {α : Type} (a : Answer) (f : State → α) : Option α :=
  match a with
  | .next t => some (f t)
  | _ => none

/-- What an operation gives back. -/
def given (a : Answer) : Option Result := after a State.result

/-- The colours of the given columns of a background, or of the sprite line. -/
def bgColours (a : Answer) (b : Nat) (xs : List Nat) : Option (List Word) :=
  after a fun t => xs.map fun x => (t.line.bgCol b x).colour
def sprColours (a : Answer) (xs : List Nat) : Option (List Word) := after a fun t => xs.map fun x => (t.line.sprCol x).colour

/-- A line is its columns, so that a test computes only those it looks at. -/
theorem bg_line (s : State) (b : Fin 4) (f : Nat → BgCol) (xs : List Nat) :
    bgColours (.next (s.setBgLine b (bgBuffer 240 f))) b xs =
      some (xs.map fun x => (if x < 240 then f x else BgCol.transparent).colour) := by
  unfold bgColours after
  simp only [State.setBgLine_line, LineBuffers.bgCol_setBg _ _ _ _ b.isLt b.isLt, if_true, bgBuffer_read]
theorem spr_line (s : State) (f : Nat → SprCol) (xs : List Nat) :
    sprColours (.next (s.setSprLine (sprBuffer 240 f))) xs =
      some (xs.map fun x => (if x < 240 then f x else SprCol.empty).colour) := by
  unfold sprColours after
  simp only [State.setSprLine_line, LineBuffers.sprCol, sprBuffer_read]

-- 95_test_vectors.md section 2.1
theorem test_readU8_V1_V2 :
    let s := host [w8 .vram 0x17FFF 0xAB, w8 .vram 0x18000 0xCD]
    given (exec (.readU8 .vramGba 0x17FFF) s) = some (.value 0xAB) ∧
    given (exec (.readU8 .vramGba 0x18000) s) = some (.value 0) := by decide
theorem test_readU16Le_V3_V4 :
    let s := host [w8 .vram 0x17FFF 0xAB, w8 .io 0x50 0x41, w8 .io 0x51 0x02]
    given (exec (.readU16Le .vramGba 0x17FFF) s) = some (.value 0) ∧
    given (exec (.readU16Le .io 0x50) s) = some (.value 0x0241) := by decide
theorem test_readU32Le_V7 :
    given (exec (.readU32Le .io 0x29) (host [w32 .io 0x29 0x44332211])) = some (.value 0x44332211) ∧
    given (exec (.readU32Le .io 0xFFFFFFFF) (host [w32 .io 0 0x44332211])) = some (.value 0) := by decide
theorem test_hostWrite_V9 :
    after (exec (.hostWrite (w32 .oam 0x3FE 0xAABBCCDD)) State.reset) State.oam = some [(0x3FE, 0xDD), (0x3FF, 0xCC)] := by
  decide
theorem test_hostWrite_fill_and_zero :
    after (exec (.hostWrite (.fill .bgPltt 0x1FE 9 0x11)) State.reset) State.bgPltt = some [(0x1FE, 0x11), (0x1FF, 0x11)] ∧
    after (exec (.hostWrite (w8 .io 8 0)) (host [w16 .io 8 0x0804])) State.io = some [(9, 0x08)] := by decide
theorem test_hostRead_framebuffer :
    let s := { State.reset with fb := [(1, 0xFF123456)] }
    given (exec (.hostRead .fb 4 .w1) s) = some (.value 0x56) ∧ given (exec (.hostRead .fb 6 .w4) s) = some (.value 0xFF12) ∧
    given (exec (.hostRead .fb 0x1C1FFE .w4) s) = some (.value 0) := by decide
-- A host write to the framebuffer that crosses a word (assumption 16): byte 4i is R of pixel i (20_memory.md R201).
theorem test_hostWrite_framebuffer :
    after (exec (.hostWrite (w16 .fb 7 0x00AB)) { State.reset with fb := [(1, 0xFF123456), (2, 0x000000CC)] }) State.fb =
      some [(1, 0xAB123456)] := by decide
theorem test_getFramebuffer : given (exec .getFramebuffer State.reset) = some .framebuffer := by decide

-- section 2.2
theorem test_dec4_D1_D2_D3 :
    let s := host [w8 .vram (0x20 + 21) 0x20, w8 .vram 0x40 0xF1]
    given (exec (.dec4 .vramGba 0x20 3 5) s) = some (.index 2) ∧ given (exec (.dec4 .vramGba 0x20 2 5) s) = some (.index 0) ∧
    given (exec (.dec4 .vramGba 0x40 0 0) s) = some (.index 1) ∧ given (exec (.dec4 .vramGba 0x40 1 0) s) = some (.index 15) := by
  decide
theorem test_dec8_D4_D8 :
    let s := host [w8 .vram (0x40 + 19) 0x7E, w8 .vram 0x18000 0xFF]
    given (exec (.dec8 .vramGba 0x40 3 2) s) = some (.index 0x7E) ∧
    given (exec (.dec8 .vramGba 0x17FE0 0 4) s) = some (.index 0) := by decide
theorem test_decDmg_D6 :
    let s := host [w8 .vram 0x12 0x3C, w8 .vram 0x13 0x7E]
    ([0, 1, 2, 3, 4, 5, 6, 7] : List Byte).map (fun x => given (exec (.decDmg 0x10 x 1) s)) =
      ([0, 2, 3, 3, 3, 3, 2, 0] : List Byte).map fun i => some (.index i) := by decide
theorem test_decode_selects :
    let s := host [w8 .vram (0x20 + 21) 0x20, w8 .vram (0x20 + 43) 0x7E]
    given (exec (.decode .vramGba 0x20 3 5 false) s) = some (.index 2) ∧
    given (exec (.decode .vramGba 0x20 3 5 true) s) = some (.index 0x7E) := by decide
theorem test_fetch_flips :
    let s := host [w8 .vram (0x20 + 21) 0x20]
    given (exec (.fetch .vramGba 0x20 4 5 true false false) s) = some (.index 2) ∧
    given (exec (.fetch .vramGba 0x20 3 2 false true false) s) = some (.index 2) := by decide
theorem test_flips_D9_to_D12 :
    given (exec (.flipNone 1 6 8 8) State.reset) = some (.point 1 6) ∧
    given (exec (.flipH 1 6 8 8) State.reset) = some (.point 6 6) ∧
    given (exec (.flipV 1 6 8 8) State.reset) = some (.point 1 1) ∧
    given (exec (.flipHV 1 6 8 8) State.reset) = some (.point 6 1) := by decide
theorem test_flipH_D13 : given (exec (.flipH 3 0 16 32) State.reset) = some (.point 12 0) := by decide

-- section 2.3
theorem test_rgb555_P6_P7 :
    given (exec (.rgb555ToRgba 0x8000) State.reset) = some (.colour 0xFF000000) ∧
    given (exec (.rgb555ToRgba 0x7C1F) State.reset) = some (.colour 0xFFF800F8) := by decide
theorem test_dmgShade_P8_P9 :
    given (exec (.dmgShade 0xE4 3) State.reset) = some (.colour 0xFF0F380F) ∧
    given (exec (.dmgShade 0x1B 0) State.reset) = some (.colour 0xFF0F380F) := by decide
theorem test_rgb888_P11 : given (exec (.rgb888ToRgba 0x12 0x34 0x56) State.reset) = some (.colour 0xFF563412) := by decide

-- section 2.4, section 3 (program P1)
def p1 : State := host [w16 .io 0x08 0x0800, w16 .vram 0x4000 1, w8 .vram 0x35 0x20, w16 .bgPltt 4 0x001F, w16 .io 0 0x0100]

theorem test_textBgLine_T1 : bgColours (exec (.textBgLine 0 5) p1) 0 [2, 3, 4] = some [0, 0xFF0000F8, 0] :=
  (bg_line _ 0 _ _).trans (by decide +kernel)
theorem test_textBgLine_T12 :
    let s := host [w16 .io 0x0A 0xC801, w16 .vram 0x4800 1, w8 .vram 0x35 0x20, w16 .bgPltt 4 0x001F, w16 .io 0x14 256]
    bgColours (exec (.textBgLine 1 5) s) 1 [2, 3, 4] = some [0, 0xFF0000F8, 0] := by
  intro s
  exact (bg_line _ 1 _ _).trans (by decide +kernel)

-- section 2.5 (program P5)
def p5 : State := host [w8 .vram 0x4000 1, .fill .vram 0x40 0x40 1, w16 .bgPltt 2 0x001F, w16 .io 0x0C 0x2800,
  w16 .io 0x20 0x0200, w16 .io 0x26 0x0200, w16 .io 0 0x0400, w32 .io 0x28 0x0FFFFC00]

theorem test_affineBgLineWrap_A4 :
    bgColours (exec (.affineBgLineWrap 0x2800 2 3) p5) 2 [0, 1, 2, 5, 6, 66, 197, 198] =
      some [0, 0, 0xFF0000F8, 0xFF0000F8, 0, 0xFF0000F8, 0xFF0000F8, 0] :=
  (bg_line _ 2 _ _).trans (by decide +kernel)
theorem test_affineBgLineWrap_A8 :
    let s := host [w8 .vram 0x4000 1, w8 .vram 0x45 1, w16 .bgPltt 2 0x001F, w16 .io 0x20 0x0100, w16 .io 0x22 0x0100]
    bgColours (exec (.affineBgLineWrap 0x2800 2 5) s) 2 [0, 1] = some [0xFF0000F8, 0] := by
  intro s
  exact (bg_line _ 2 _ _).trans (by decide +kernel)
theorem test_affineBgLineClip_A3 :
    bgColours (exec (.affineBgLineClip 0x0800 2 3) p5) 2 [1, 2, 5, 6, 66] = some [0, 0xFF0000F8, 0xFF0000F8, 0, 0] :=
  (bg_line _ 2 _ _).trans (by decide +kernel)

-- section 2.6, section 3 (program P3)
def p3 : State := host [.fill .vram 0x10020 0x20 0x11, .fill .vram 0x10040 0x20 0x22, w8 .vram 0x10060 1,
  w16 .objPltt 2 0x7C00, w16 .objPltt 4 0x03E0, w16 .objPltt 0x22 0x7FFF, w16 .oam 0x18 0x000A, w16 .oam 0x1A 0x0014,
  w16 .oam 0x1C 0x0401, w16 .oam 0x28 0x000C, w16 .oam 0x2A 0x0018, w16 .oam 0x2C 0x0402, w16 .oam 0x38 0,
  w16 .oam 0x3A 0x11FC, w16 .oam 0x3C 0x1003, w16 .io 0 0x1040]

/-- The sprite of the affine table: one texel lit, its byte and value given, matrix group 0 given. -/
def affineSprite (byte value pa pb pc pd : Word) : State := host [w8 .vram (0x10080 + byte) value, w16 .objPltt 2 0x7FFF,
  w16 .oam 6 pa, w16 .oam 14 pb, w16 .oam 22 pc, w16 .oam 30 pd, w16 .io 0 0x1040]

theorem test_spriteLine_P3 :
    sprColours (exec (.spriteLine 12) p3) [19, 24, 28] = some [0, 0xFFF80000, 0xFF00F800] :=
  (spr_line _ _ _).trans (by decide +kernel)
theorem test_spriteNormal_S6 :
    sprColours (exec (.spriteNormal 0x001E 0x4028 0x0004 30) (affineSprite 0 0x10 0 0 0 0)) [40, 41, 42] =
      some [0, 0xFFF8F8F8, 0] :=
  (spr_line _ _ _).trans (by decide +kernel)
theorem test_spriteNormal_negativeX_hflip :
    sprColours (exec (.spriteNormal 0x0000 0x11FC 0x1003 0) p3) [2, 3, 4] = some [0, 0xFFF8F8F8, 0] :=
  (spr_line _ _ _).trans (by decide +kernel)
theorem test_spriteAffine_S3 :
    sprColours (exec (.spriteAffine 0x011E 0x4028 0x0004 31) (affineSprite 0 0x10 0 0x100 0x100 0)) [39, 40, 41] =
      some [0, 0xFFF8F8F8, 0] :=
  (spr_line _ _ _).trans (by decide +kernel)
theorem test_spriteAffine_S4 :
    sprColours (exec (.spriteAffine 0x011E 0x4028 0x0004 31) (affineSprite 18 0x01 0x80 0 0 0x80)) [39, 40, 41, 42] =
      some [0, 0xFFF8F8F8, 0xFFF8F8F8, 0] :=
  (spr_line _ _ _).trans (by decide +kernel)
theorem test_spriteAffineDbl_S2 :
    sprColours (exec (.spriteAffineDbl 0x031E 0x4028 0x0004 38) (affineSprite 0 0x10 0x100 0 0 0x100)) [48, 49, 50] =
      some [0, 0xFFF8F8F8, 0] :=
  (spr_line _ _ _).trans (by decide +kernel)
theorem test_spriteHidden :
    after (exec (.spriteHidden 0x0200 0 3 0) p3) State.line = some LineBuffers.cleared := by decide +kernel

/-- A sprite line that holds one colour of priority 1 at column 50. -/
def oneSprite : State :=
  { State.reset with line := { LineBuffers.cleared with spr := [(50, ⟨0xFFF80000, 1, false, true⟩)] } }

theorem test_omodeNormal_empty_and_behind :
    after (exec (.omodeNormal 7 3 0x03E0) oneSprite) (fun t => t.line.sprCol 7) = some ⟨0xFF00F800, 3, false, false⟩ ∧
    after (exec (.omodeNormal 50 2 0x03E0) oneSprite) (fun t => t.line.sprCol 50) = some ⟨0xFFF80000, 1, false, true⟩ := by
  decide
theorem test_omodeSemi_equal_priority :
    after (exec (.omodeSemi 50 1 0x03E0) oneSprite) (fun t => t.line.sprCol 50) = some ⟨0xFF00F800, 1, true, true⟩ := by
  decide
theorem test_omodeObjwin :
    after (exec (.omodeObjwin 51) oneSprite) (fun t => t.line.spr) =
      some [(50, ⟨0xFFF80000, 1, false, true⟩), (51, ⟨0, 0xFF, false, true⟩)] := by decide
theorem test_omodeHidden : after (exec (.omodeHidden 51) oneSprite) State.line = some oneSprite.line := by decide

theorem test_objSize_square :
    given (exec (.objSizeSquare8x8 false false 159 239) State.reset) = some (.bounds 8 8 8 8 239 159) ∧
    given (exec (.objSizeSquare16x16 true false 160 240) State.reset) = some (.bounds 16 16 16 16 (-272) (-96)) ∧
    given (exec (.objSizeSquare32x32 false true 255 511) State.reset) = some (.bounds 32 32 32 32 (-1) (-1)) ∧
    given (exec (.objSizeSquare64x64 true true 0 0) State.reset) = some (.bounds 64 64 128 128 0 0) := by decide
theorem test_objSize_wide :
    given (exec (.objSizeWide16x8 true true 0 0) State.reset) = some (.bounds 16 8 32 16 0 0) ∧
    given (exec (.objSizeWide32x8 false false 0 0) State.reset) = some (.bounds 32 8 32 8 0 0) ∧
    given (exec (.objSizeWide32x16 false false 0 0) State.reset) = some (.bounds 32 16 32 16 0 0) ∧
    given (exec (.objSizeWide64x32 false false 0 0) State.reset) = some (.bounds 64 32 64 32 0 0) := by decide
theorem test_objSize_tall :
    given (exec (.objSizeTall8x16 true true 0 0) State.reset) = some (.bounds 8 16 16 32 0 0) ∧
    given (exec (.objSizeTall8x32 false false 0 0) State.reset) = some (.bounds 8 32 8 32 0 0) ∧
    given (exec (.objSizeTall16x32 false false 0 0) State.reset) = some (.bounds 16 32 16 32 0 0) ∧
    given (exec (.objSizeTall32x64 false false 0 0) State.reset) = some (.bounds 32 64 32 64 0 0) := by decide
theorem test_objSize_reserved : given (exec (.objSizeReserved 3) State.reset) = some .noSize := by decide

-- section 2.7
theorem test_windowIn_W1_W2_W5 :
    given (exec (.windowIn 0x0A14 0x050F 10 14 240 160) State.reset) = some (.inside true) ∧
    given (exec (.windowIn 0x0A14 0x050F 20 14 240 160) State.reset) = some (.inside false) ∧
    given (exec (.windowIn 0x140A 0x050F 12 14 240 160) State.reset) = some (.inside false) ∧
    given (exec (.windowIn 0x0A0A 0x050F 10 14 240 160) State.reset) = some (.inside false) := by decide
theorem test_windowIn_W3_W4 :
    given (exec (.windowIn 0x00F0 0x00A0 239 159 240 160) State.reset) = some (.inside true) ∧
    given (exec (.windowIn 0x00F1 0x00A0 239 159 240 160) State.reset) = some (.inside false) := by decide
theorem test_windowEnables_W6 :
    let s := host [w16 .io 0 0x6100, w16 .io 0x40 0x0A14, w16 .io 0x44 0x050F, w16 .io 0x42 0x00F0, w16 .io 0x46 0x00A0,
      w16 .io 0x48 0x0100]
    given (exec (.windowEnables 10 5) s) = some (.enables 0) ∧ given (exec (.windowEnables 9 5) s) = some (.enables 1) := by
  decide
theorem test_windowEnables_W8 :
    let s := { host [w16 .io 0 0x9140, w16 .io 0x4A 0x0102] with line := oneSprite.line }
    given (exec (.windowEnables 50 5) s) = some (.enables 1) ∧ given (exec (.windowEnables 51 5) s) = some (.enables 2) := by
  decide

/-- The blend registers of the channel-arithmetic vectors. -/
def blendState (bldcnt bldalpha bldy : Word) : State := host [w16 .io 0x50 bldcnt, w16 .io 0x52 bldalpha, w16 .io 0x54 bldy]

theorem test_effectNone_M15 :
    given (exec (.effectNone 0 ⟨.bg0, 0xFF0000F8, false⟩ (some ⟨.bg1, 0xFF00F800, false⟩)) (blendState 0 0x0808 16)) =
      some (.colour 0xFF0000F8) := by decide
theorem test_effectAlpha_M10_M13 :
    given (exec (.effectAlpha 0x0241 ⟨.bg0, 0xFF0000F8, false⟩ (some ⟨.bg1, 0xFF00F800, false⟩)) (blendState 0x0241 0x0808 0)) =
      some (.colour 0xFF007C7C) ∧
    given (exec (.effectAlpha 0x0241 ⟨.bg0, 0xFF0000F8, false⟩ (some ⟨.bg1, 0xFF00F8F8, false⟩)) (blendState 0x0241 0x1F1F 0)) =
      some (.colour 0xFF00F8FF) := by decide
theorem test_effectAlpha_M14 :
    given (exec (.effectAlpha 0x0141 ⟨.bg0, 0xFF0000F8, false⟩ (some ⟨.bg1, 0xFF00F800, false⟩)) (blendState 0x0141 0x0808 0)) =
      some (.colour 0xFF0000F8) := by decide
theorem test_effectBrighten_M9_M6 :
    given (exec (.effectBrighten 0x81 ⟨.bg0, 0xFF0000F8, false⟩ none) (blendState 0x81 0 8)) = some (.colour 0xFF7F7FFB) ∧
    given (exec (.effectBrighten 0x81 ⟨.bg0, 0xFF0000F8, false⟩ none) (blendState 0x81 0 31)) = some (.colour 0xFFFFFFFF) := by
  decide
theorem test_effectDarken_M12_M8 :
    given (exec (.effectDarken 0xC1 ⟨.bg0, 0xFF0000F8, false⟩ none) (blendState 0xC1 0 4)) = some (.colour 0xFF0000BA) ∧
    given (exec (.effectDarken 0xC1 ⟨.bg1, 0xFF0000F8, false⟩ none) (blendState 0xC1 0 16)) = some (.colour 0xFF0000F8) := by
  decide
theorem test_semiForcedAlpha :
    given (exec (.semiForcedAlpha 0xFF00F800 ⟨.bg0, 0xFF0000F8, false⟩) (blendState 0x0100 0x0808 0)) =
      some (.colour 0xFF007C7C) ∧
    given (exec (.semiForcedAlpha 0xFF00F800 ⟨.bg0, 0xFF0000F8, false⟩) (blendState 0 0x0808 0)) =
      some (.colour 0xFF00F800) := by decide

/-- BG0 red of priority 1 over a blue backdrop, and a green sprite of the given priority, at column 50. -/
def twoLayers (prio : Byte) : State :=
  { host [w16 .bgPltt 0 0x7C00] with
    line := { LineBuffers.cleared with bg0 := [(50, ⟨0xFF0000F8, 1, 0⟩)], spr := [(50, ⟨0xFF00F800, prio, false, false⟩)] } }

theorem test_composeLine_priority :
    after (exec (.composeLine 60) (twoLayers 2)) (fun t => [t.fbWord 14450, t.fbWord 14451, t.fbWord 14640]) =
      some [0xFF0000F8, 0xFFF80000, 0] ∧
    after (exec (.composeLine 60) (twoLayers 1)) (fun t => t.fbWord 14450) = some 0xFF00F800 := by decide +kernel

-- section 2.8, section 3
/-- Pixel (x, y) of a rendered frame. -/
theorem frame_pixel (s : State) (w h x y : Nat) (row : Nat → List Word) (v : Word) (hl : ∀ y, (row y).length = w) (hx : x < w)
    (hy : y < h) (hv : ((row y)[x]?).getD 0 = v) :
    after (.next (s.withFrame w h row)) (fun t => t.fbWord (y * w + x)) = some v :=
  congrArg some ((writeFrame_pixel s.fb w h row (fun y _ => hl y) x y hx hy).trans hv)

theorem gbaRow_length (s : State) (mixed : Bool) (y : Nat) : (gbaRow s mixed y).length = 240 := by
  simp [gbaRow, composeRow, Config.gbaW]

theorem renderGba_eq (s : State) (mixed : Bool) (h : s.forcedBlankGba = false) :
    s.renderGba mixed = s.withFrame 240 160 (gbaRow s mixed) := by
  unfold State.renderGba; rw [h]; rfl

theorem test_renderFrameGbaText_P1 :
    after (exec .renderFrameGbaText p1) (fun t => t.fbWord (5 * 240 + 3)) = some 0xFF0000F8 := by
  show after (.next (p1.renderGba false)) _ = _
  rw [renderGba_eq p1 false (by decide +kernel)]
  exact frame_pixel _ _ _ _ _ _ _ (gbaRow_length _ _) (by decide) (by decide) (by decide +kernel)
theorem test_renderFrameGbaMixed_X5 :
    let s := host [w16 .io 0x0E 0x0800, w16 .vram 0x4000 1, w8 .vram 0x35 0x20, w16 .bgPltt 4 0x001F, w16 .io 0 0x0800]
    after (exec .renderFrameGbaMixed s) (fun t => t.fbWord (5 * 240 + 3)) = some 0xFF000000 := by
  intro s
  show after (.next (s.renderGba true)) _ = _
  rw [renderGba_eq s true (by decide +kernel)]
  exact frame_pixel _ _ _ _ _ _ _ (gbaRow_length _ _) (by decide) (by decide) (by decide +kernel)
theorem test_renderFrameGbaMixed_P5 :
    after (exec .renderFrameGbaMixed p5) (fun t => t.fbWord (3 * 240 + 66)) = some 0xFF0000F8 := by
  show after (.next (p5.renderGba true)) _ = _
  rw [renderGba_eq p5 true (by decide +kernel)]
  exact frame_pixel _ _ _ _ _ _ _ (gbaRow_length _ _) (by decide) (by decide) (by decide +kernel)
theorem test_renderFrame_X3 :
    let s := host [w16 .io 0 0x0080, .mode 3]
    exec .renderFrame s = .next s := rfl
theorem test_renderFrame_mode1 : exec .renderFrame { p1 with regs := ⟨1, 0⟩ } = exec .renderFrameGbaText { p1 with regs := ⟨1, 0⟩ } :=
  rfl
theorem test_renderFrameNop : exec (.renderFrameNop 3) p1 = .next p1 := rfl
theorem test_renderFrameMode0_Z2 : exec .renderFrameMode0 (host [.frameWidth 1281]) = .next (host [.frameWidth 1281]) := by
  show Host.Outcome.next _ = _
  unfold State.renderMode0
  rw [show (host [.frameWidth 1281]).m0.g.forcedBlank = false from m0_forcedBlank_of_blank _ rfl]
  rfl

theorem test_forcedBlank_fills :
    after (exec .forcedBlankFill State.reset) (fun t => [t.fbWord 0, t.fbWord 460799, t.fbWord 460800]) =
      some [0xFFFFFFFF, 0xFFFFFFFF, 0] := by
  show some [State.forcedBlankFill _ |>.fbWord 0, State.forcedBlankFill _ |>.fbWord 460799,
    State.forcedBlankFill _ |>.fbWord 460800] = _
  simp only [forcedBlankFill_fbWord]
  rfl
theorem test_forcedBlankGba : exec (.forcedBlankGba 0x0080) p1 = exec .forcedBlankFill p1 := rfl
theorem test_forcedBlankDmg_G5 : exec (.forcedBlankDmg 0x11) p1 = exec .forcedBlankFill p1 := rfl
theorem test_forcedBlankMode0_reset : exec .forcedBlankMode0 State.reset = .next State.reset := by
  show Host.Outcome.next _ = _
  rw [show State.reset.m0.g.forcedBlank = false from m0_forcedBlank_of_blank _ rfl]
  rfl

-- section 1 (scenario D), section 2.9
def dmgSolid : State := host [.fill .vram 0x10 16 0xFF, w8 .vram 0x1800 1, w8 .vram 0x20A0 0x91, w8 .vram 0x20A3 0xE4]

theorem test_renderFrameDmg_scenarioD :
    after (exec .renderFrameDmg dmgSolid) (fun t => t.fbWord (7 * 160 + 7)) = some 0xFF0F380F := by
  show after (.next dmgSolid.renderDmg) _ = _
  rw [show dmgSolid.renderDmg = dmgSolid.withFrame 160 144 (dmgRow dmgSolid) by
    unfold State.renderDmg; rw [show lcdOn dmgSolid.lcdc = true by decide +kernel]; rfl]
  exact frame_pixel _ _ _ _ _ _ _ (fun y => by simp [dmgRow, Config.dmgW]) (by decide) (by decide) (by decide +kernel)
theorem test_dmgTile_D17 :
    given (exec (.dmgTileUnsigned 0x10 0x80) State.reset) = some (.address 0x0800) ∧
    given (exec (.dmgTileSigned 0x00 0x80) State.reset) = some (.address 0x0800) ∧
    given (exec (.dmgTileSigned 0x00 0x7F) State.reset) = some (.address 0x17F0) := by decide
theorem test_dmgObj :
    let s := host [w8 .vram 0x2004 36, w8 .vram 0x2005 3, w8 .vram 0x2006 2, w8 .vram 0x2007 0x80]
    given (exec (.dmgObj8 0 1) s) = some (.dmgObj 8 20 (-5) 2 0x80) ∧
    given (exec (.dmgObj16 4 1) s) = some (.dmgObj 16 20 (-5) 2 0x80) := by decide
theorem test_dmgSpriteEntry_G8 :
    let s := host [.fill .vram 0x20 1 0xFF, w8 .vram 0x3F 0xFF, w8 .vram 0x20A0 0x86]
    given (exec (.dmgSpriteEntry 16 8 3 0x40 0 0) s) = some (.indexIfCovered (some 2)) ∧
    given (exec (.dmgSpriteEntry 16 8 3 0x40 7 15) s) = some (.indexIfCovered (some 1)) ∧
    given (exec (.dmgSpriteEntry 16 8 3 0x40 8 15) s) = some (.indexIfCovered none) := by decide
/-- Sprite 0 in front, sprite 1 behind, both of index 1 at column 0, over a background of index 3; BGP and OBP0 given. -/
def dmgSprites (bgp obp0 : Word) : State := host [.fill .vram 0x00 2 0xFF, w8 .vram 0x20 0xFF, w8 .vram 0x2000 16,
  w8 .vram 0x2001 8, w8 .vram 0x2002 2, w8 .vram 0x2004 16, w8 .vram 0x2005 8, w8 .vram 0x2006 2, w8 .vram 0x2007 0x80,
  w8 .vram 0x20A0 0x93, w8 .vram 0x20A3 bgp, w8 .vram 0x20A4 obp0]

theorem test_dmgPixel_front_and_behind :
    given (exec (.dmgPixel 0 0 [0, 1]) (dmgSprites 0x00 0x0C)) = some (.colour 0xFF0F380F) ∧
    given (exec (.dmgPixel 0 0 [1, 0]) (dmgSprites 0xC0 0x00)) = some (.colour 0xFF0F380F) := by decide +kernel

-- section 2.10, section 3 (program P6): on typed records
/-- The common start of the mode-0 rows. -/
def m0Start : M0Record :=
  { bg := fun _ => { widthTiles := 32, heightTiles := 45, wrapX := true, wrapY := true }, tilemapEntries := 4096
    tile := fun o => BitVec.ofNat 8 (o / 32 * 0x11) }

/-- Program P6. -/
def p6 : M0Record :=
  { m0Start with
    map := fun _ k => BitVec.ofNat 32 (k % 32 % 4 + 1), pal := fun _ i => (BitVec.ofNat 8 (0x10 * i), 0, 0)
    lineScroll := fun b l => if b = 0 ∧ l = 100 then (8, 0) else (0, 0) }

theorem test_m0BgText_P6 :
    (m0TextPixel p6 0 0 8).colour = 0xFF000020 ∧ (m0TextPixel p6 0 100 0).colour = 0xFF000020 ∧
    (m0TextPixel p6 0 100 255).colour = 0xFF000010 := by decide +kernel
theorem test_m0BgText_reset : after (exec (.m0BgText 0 0) State.reset) State.line = some LineBuffers.cleared := by decide

/-- Vector Z13. -/
def z13 : M0Record :=
  { m0Start with
    bg := fun _ => { widthTiles := 4, heightTiles := 4, affine := true, matrix := ⟨0x100, 0, 0, 0x100⟩ }
    map := fun _ k => if k = 1 then 1 else 0, pal := fun _ i => if i = 1 then (0xFF, 0xFF, 0xFF) else (0, 0, 0)
    lineAffine := fun b l => if b = 0 ∧ l = 9 then ⟨true, 0, 0⟩ else ⟨false, 0, 0⟩ }

theorem test_m0BgAffine_Z13 :
    (m0AffinePixel z13 0 7 8).colour = 0xFFFFFFFF ∧ (m0AffinePixel z13 0 8 8).colour = 0 ∧
    (m0AffinePixel z13 0 9 15).colour = 0xFFFFFFFF ∧ (m0AffinePixel z13 0 9 16).colour = 0 := by decide +kernel
theorem test_m0BgAffine_reset : after (exec (.m0BgAffine 3 359) State.reset) State.line = some LineBuffers.cleared := by decide

/-- Vectors Z5 to Z9: the map words of BG0 and BG1 at entry 0, the layer priority of BG1, the sprite's priority. -/
def z5 (e0 e1 : Word) (layer1 : Byte) (objOn : Bool) (sprPrio : Nat) : M0Record :=
  { m0Start with
    g := { objOn := objOn }
    bg := fun b =>
      { enabled := decide (b < 2), widthTiles := 32, heightTiles := 45, wrapX := true, wrapY := true
        layerPriority := if b = 1 then layer1 else 0 }
    map := fun b k => if k = 0 then (if b = 0 then e0 else e1) else 0
    pal := fun _ i => if i = 1 then (0xFF, 0, 0) else if i = 2 then (0, 0xFF, 0) else if i = 3 then (0, 0, 0xFF) else (0, 0, 0)
    spr := fun i => if i = 7 then { enabled := true, w8 := 1, h8 := 1, tile := 3, priority := sprPrio } else {} }

/-- Pixel (x, 0) of a mode-0 frame 16 columns wide. -/
def m0Pixel (M : M0Record) (x : Nat) : Word := m0ComposePixel M 16 (m0Lines M 16 0) 0 x

theorem test_m0ComposeLine_Z5_Z6_Z7 :
    m0Pixel (z5 0x05000001 0x02000002 0 false 0) 0 = 0xFF00FF00 ∧ m0Pixel (z5 0x05000001 0x02000002 0 false 0) 8 = 0xFF000000 ∧
    m0Pixel (z5 0x05000001 0x05000002 0 false 0) 0 = 0xFF0000FF ∧ m0Pixel (z5 0x05000001 0x00000002 1 false 0) 0 = 0xFF0000FF := by
  decide +kernel
theorem test_m0ComposeLine_Z8_Z9 :
    m0Pixel (z5 0x05000001 0x00000002 1 true 1) 0 = 0xFF0000FF ∧ m0Pixel (z5 0x05000001 0x00000002 1 true 0) 0 = 0xFFFF0000 := by
  decide +kernel
theorem test_m0SpriteLine_Z9 :
    m0SpritePixel (z5 0 0 0 true 300) 0 7 = ⟨0xFFFF0000, 0xFF, false, false⟩ ∧
    m0SpritePixel (z5 0 0 0 true 0) 0 8 = SprCol.empty := by decide +kernel

/-! ### Steps, and a bare word of the opcode table -/

theorem test_step_runs_and_advances :
    step (State.reset.withPort [0x05, 0x33]) = .next { State.reset with result := .framebuffer, port := [0x33] } := rfl
theorem test_step_idle : step State.reset = .next State.reset := rfl
theorem test_step_refuses : step (State.reset.withPort [0xFF]) = .refused (.badCommand .unknownFormat) := rfl
theorem test_decodeTableWord :
    decodeTableWord 32 0x00000007 = some .renderFrameDmg ∧ decodeTableWord 16 0x2000 = some (.affineBgLineWrap 0x2000 2 0) ∧
    decodeTableWord 16 0x0300 = some (.spriteAffineDbl 0x0300 0 0 0) ∧
    decodeTableWord 8 0x40 = some (.effectAlpha 0x40 ⟨.bg0, 0, false⟩ none) := by decide
theorem test_withFetchWord : step (State.reset.withFetchWord 32 3) = .next State.reset := rfl

/-! ### Every obligation's hypotheses are met

Where an obligation has several clauses, each has its line here, at a boundary of its range. -/

theorem witness_StepRunsDecodedInstruction :
    decode (State.reset.withPort [0x05, 0x33]).port = .ok (.getFramebuffer, [0x33]) := by decide
theorem witness_StepIdlesOrRefuses :
    State.reset.port = [] ∧ (State.reset.withPort [0xFF]).port ≠ [] ∧
    decode (State.reset.withPort [0xFF]).port = .error .unknownFormat := by decide
theorem witness_DecodeEncodeRoundTrip :
    Instr.wellFormed (.dmgPixel 159 143 [39, 0]) = true ∧ Instr.wellFormed (.flipHV 15 31 16 32) = true ∧
    Instr.wellFormed (.affineBgLineClip 0xDFFF 3 159) = true ∧ Instr.wellFormed (.renderFrameNop 0xFFFFFFFF) = true := by
  decide
theorem witness_DecodeReadsOnlyItsBytes : decode [0x42, 159, 143, 1, 39, 0x33] = .ok (.dmgPixel 159 143 [39], [0x33]) := by
  decide
theorem witness_SelectorsChooseTheirRow :
    ((7 : Byte).toNat < 8) ∧
    (Contributor.wellFormed ⟨.obj, 0xFF0000F8, true⟩ = true ∧
      (some ⟨.bd, 0xFF0000F8, false⟩ : Option Contributor).all Contributor.wellFormed = true) ∧
    ((239 : Byte).toNat < 240 ∧ (3 : Byte).toNat < 4) ∧ ((159 : Byte).toNat < 160) ∧
    ((15 : Half).toNat < (16 : Half).toNat ∧ (31 : Half).toNat < (32 : Half).toNat ∧
      ∃ e : Half, [0x83, 0x01, 0x04] = [0x83] ++ putHalf e ∧ true = bit e 10 ∧ false = bit e 11) ∧
    ((39 : Byte).toNat < 40) :=
  ⟨by decide, by decide, by decide, by decide, ⟨by decide, by decide, 0x0401, by decide⟩, by decide⟩
theorem witness_SelectorsChooseTheirRow_flipWords :
    (∃ a1 : Half, [0x84, 0x14, 0x30] = [0x84] ++ putHalf a1 ∧ true = bit a1 12 ∧ true = bit a1 13) ∧
    (∃ e : Word, [0x85, 1, 0, 0, 0x10] = [0x85] ++ putWord e ∧ false = bit e 27 ∧ true = bit e 28) ∧
    (∃ f : Byte, ([0x86, 0x20] : List Byte) = [0x86, f] ∧ true = bit f 5 ∧ false = bit f 6) :=
  ⟨⟨0x3014, by decide⟩, ⟨0x10000001, by decide⟩, ⟨0x20, by decide⟩⟩
theorem witness_NarrowReadsAgree :
    ((0 : Int) ≤ 0x3FE ∧ (0x3FE : Int) + 2 ≤ viewSize .io) ∧ ((0 : Int) ≤ 0x3FC ∧ (0x3FC : Int) + 4 ≤ viewSize .io) := by decide
theorem witness_HostReadSeesLastWrite :
    (0 ≤ (0x3FFFFF : Word).toInt ∧ (0x3FFFFF : Word).toInt < regionSize .vram) ∧
    (0 ≤ (0x1C1FFF : Word).toInt ∧ (0x1C1FFF : Word).toInt < regionSize .fb) ∧
    (0 ≤ (0x3FF : Word).toInt ∧ (0x3FF : Word).toInt < regionSize .oam) ∧
    ((Region.oam, (0x3FE : Word)) ≠ (.oam, 0x3FF) ∧ 0 ≤ (0x3FE : Word).toInt ∧ (0x3FE : Word).toInt < regionSize .oam) := by
  decide
theorem witness_TilePixelDecoders : (7 : Byte).toNat < 8 ∧ (0 : Byte).toNat < 8 := by decide
theorem witness_DmgTilePixel : (7 : Byte).toNat < 8 ∧ (7 : Byte).toNat < 8 := by decide
theorem witness_FlipRows : (15 : Half).toNat < (16 : Half).toNat ∧ (0 : Half).toNat < (1 : Half).toNat := by decide
theorem witness_FetchFlipsThenDecodes : (0 : Byte).toNat < 8 ∧ (7 : Byte).toNat < 8 := by decide
theorem witness_DmgShadeOfSlot :
    ((3 : Byte).toNat < 4 ∧ (0xE4 : Byte).toNat / 4 ^ (3 : Byte).toNat % 4 = 3) ∧
    ((0 : Byte).toNat < 4 ∧ (0xE4 : Byte).toNat / 4 ^ (0 : Byte).toNat % 4 = (0 : Fin 3).val) := by decide
theorem witness_TextBgLineColumns : (3 : Byte).toNat < 4 ∧ (159 : Byte).toNat < 160 := by decide

/-- Program P1 with another scroll of BG0. -/
def p1Scrolled (h : Word) : State := p1.hostWrite (w16 .io 0x10 h)

theorem witness_TextScrollPeriodicity :
    (p1Scrolled 257).vram = (p1Scrolled 1).vram ∧ (p1Scrolled 257).bgPltt = (p1Scrolled 1).bgPltt ∧
    (p1Scrolled 257).readU16 .io 0x08 = (p1Scrolled 1).readU16 .io 0x08 ∧
    (if bit ((p1Scrolled 1).readU16 .io 0x08) 14 then 512 else 256) = 256 ∧
    bitsN ((p1Scrolled 257).readU16 .io 0x10) 0 9 % 256 = bitsN ((p1Scrolled 1).readU16 .io 0x10) 0 9 % 256 ∧
    (p1Scrolled 257).readU16 .io 0x10 ≠ (p1Scrolled 1).readU16 .io 0x10 ∧
    bitsN ((p1Scrolled 257).readU16 .io 0x12) 0 9 = bitsN ((p1Scrolled 1).readU16 .io 0x12) 0 9 := by decide +kernel
theorem witness_AffineBgLineColumns :
    (bit (0x2800 : Half) 13 = true ∧ (2 : Byte).toNat = 2 ∧ (159 : Byte).toNat < 160) ∧
    (bit (0xDFFF : Half) 13 = false ∧ (3 : Byte).toNat = 3 ∧ (0 : Byte).toNat < 160) := by decide

/-- An affine BG 2 of size 256 with the identity matrix and a text BG 0 that names the same tiles. -/
def identity : State :=
  { State.reset with
    io := [(0x08, 0x80), (0x09, 0x08), (0x21, 0x01), (0x27, 0x01)], bgPltt := [(10, 0x1F)]
    vram := [(0x40, 5), (0x4002, 1), (0x8001, 1)] }

theorem witness_AffineIdentityIsText_registers :
    let s := identity
    let tcnt := s.readU16 .io (0x08 + 2 * (0 : Byte).toNat)
    let cnt : Half := 0x7000
    s.readU16 .io 0x20 = 0x100 ∧ s.readU16 .io 0x22 = 0 ∧ s.readU16 .io 0x24 = 0 ∧ s.readU16 .io 0x26 = 0x100 ∧
    (s.readU32 .io 0x28).extractLsb' 0 28 = 0 ∧ (s.readU32 .io 0x2C).extractLsb' 0 28 = 0 ∧
    bit cnt 13 = true ∧ bitsN cnt 14 2 = 1 ∧ bit tcnt 7 = true ∧ bitsN tcnt 14 2 = 0 ∧ bitsN tcnt 2 2 = bitsN cnt 2 2 ∧
    bitsN tcnt 0 2 = bitsN cnt 0 2 ∧ bitsN (s.readU16 .io (0x10 + 4 * (0 : Byte).toNat)) 0 9 = 0 ∧
    bitsN (s.readU16 .io (0x12 + 4 * (0 : Byte).toNat)) 0 9 = 0 := by decide
theorem witness_AffineIdentityIsText_map :
    let s := identity
    let tcnt := s.readU16 .io (0x08 + 2 * (0 : Byte).toNat)
    let cnt : Half := 0x7000
    ∀ col row : Nat, col < 32 → row < 32 →
      (s.readU16 .vramGba ((bitsN tcnt 8 5 * 0x800 + (row * 32 + col) * 2 : Nat) : Int)).toNat % 2 ^ 12 =
        (s.readU8 .vramGba ((bitsN cnt 8 5 * 0x800 + (row * 32 + col) : Nat) : Int)).toNat := by
  intro s tcnt cnt col row hc hr
  have h : ∀ k : Nat, k < 1024 →
      (s.readU16 .vramGba ((bitsN tcnt 8 5 * 0x800 + k * 2 : Nat) : Int)).toNat % 2 ^ 12 =
        (s.readU8 .vramGba ((bitsN cnt 8 5 * 0x800 + k : Nat) : Int)).toNat := by decide +kernel
  exact h (row * 32 + col) (by omega)
theorem witness_SpriteNormalColumns :
    bit (0xFCFF : Half) 8 = false ∧ bit (0xFCFF : Half) 9 = false ∧ (159 : Byte).toNat < 160 := by decide
theorem witness_SpriteAffineColumns :
    (bit (0xFDFF : Half) 8 = true ∧ bit (0xFDFF : Half) 9 = false) ∧ (bit (0xFFFF : Half) 8 = true ∧ bit (0xFFFF : Half) 9 = true) ∧
    (159 : Byte).toNat < 160 := by decide
theorem witness_HiddenSpritesDrawNothing :
    bitsN (0x0C00 : Half) 10 2 = 3 ∧ bitsN (0xC000 : Half) 14 2 = 3 ∧
    (Instr.spriteAffineDbl 0x0F00 0 0 159 = .spriteNormal 0x0F00 0 0 159 ∨
      Instr.spriteAffineDbl 0x0F00 0 0 159 = .spriteAffine 0x0F00 0 0 159 ∨
      Instr.spriteAffineDbl 0x0F00 0 0 159 = .spriteAffineDbl 0x0F00 0 0 159) := by decide
theorem witness_SpriteLineRunsTheEntries : (159 : Byte).toNat < 160 := by decide

/-- At column 24 of line 12 of program P3 sprites 3 and 5 both show a colour, of one priority. -/
theorem witness_SpriteTieBreak :
    let s := p3
    let y : Byte := 12
    let alone := fun j : Nat =>
      match exec (s.spriteInstr y j) { s with line := { s.line with spr := [] } } with
      | .next t => t.line.sprCol 24
      | _ => SprCol.empty
    y.toNat < 160 ∧ bit (s.readU16 .io 0) 12 = true ∧ (alone 3).colour ≠ 0 ∧ (alone 5).colour ≠ 0 ∧
    ∀ j : Nat, j < 128 → (alone j).colour ≠ 0 →
      (alone 3).prio.toNat < (alone j).prio.toNat ∨ ((alone 3).prio = (alone j).prio ∧ 3 ≤ j) := by
  intro s y alone
  have e : ∀ j, alone j = s.oamSprite j y.toNat 24 SprCol.empty := fun j => by
    simp only [alone]
    rw [emptySprLine_eq, exec_spriteInstr]
    show Memory.read SprCol.empty (sprBuffer Config.gbaW _) 24 = _
    rw [sprBuffer_read, if_pos (by decide)]
    rfl
  simp only [e]
  decide +kernel
theorem witness_WindowPrecedence :
    let isIn := fun h v : Half =>
      bitsN h 8 8 ≤ 239 ∧ 239 < bitsN h 0 8 ∧ bitsN h 0 8 ≤ 240 ∧ bitsN v 8 8 ≤ 159 ∧ 159 < bitsN v 0 8 ∧ bitsN v 0 8 ≤ 160
    let w0 := host [w16 .io 0 0x6000, w16 .io 0x40 0xEFF0, w16 .io 0x44 0x9FA0]
    let w1 := host [w16 .io 0 0x6000, w16 .io 0x42 0x00F0, w16 .io 0x46 0x00A0]
    let wo := { host [w16 .io 0 0x8000] with line := { LineBuffers.cleared with spr := [(239, ⟨0, 0xFF, false, true⟩)] } }
    (239 : Byte).toNat < 240 ∧ (159 : Byte).toNat < 160 ∧ bitsN (State.reset.readU16 .io 0) 13 3 = 0 ∧
    (bit (w0.readU16 .io 0) 13 = true ∧ isIn (w0.readU16 .io 0x40) (w0.readU16 .io 0x44)) ∧
    (¬ isIn (w1.readU16 .io 0x40) (w1.readU16 .io 0x44) ∧ bit (w1.readU16 .io 0) 14 = true ∧
      isIn (w1.readU16 .io 0x42) (w1.readU16 .io 0x46)) ∧
    (bit (wo.readU16 .io 0) 13 = false ∧ bit (wo.readU16 .io 0) 14 = false ∧ bit (wo.readU16 .io 0) 15 = true ∧
      (wo.line.sprCol 239).objwin = true) ∧
    (bitsN (wo.readU16 .io 0) 13 3 ≠ 0 ∧ (wo.line.sprCol 238).objwin = false) := by decide
theorem witness_EffectNoneAndAlpha :
    bitsN (0x0201 : Half) 6 2 = 0 ∧ bitsN (0x0241 : Half) 6 2 = 1 ∧
    (bit (0x0241 : Half) (layerNum .bg0) = true ∧ bit (0x0241 : Half) (8 + layerNum .bg1) = true) ∧
    bit (0x0241 : Half) (layerNum .bd) = false ∧ bit (0x0241 : Half) (8 + layerNum .bd) = false := by decide
theorem witness_EffectBrightenAndDarken : bitsN (0x0081 : Half) 6 2 = 2 ∧ bitsN (0x00C1 : Half) 6 2 = 3 := by decide
theorem witness_SemiSpriteForcesAlpha :
    bit ((blendState 0x0100 0x0808 0).readU16 .io 0x50) (8 + layerNum .bg0) = true ∧
    bit ((blendState 0x0100 0x0808 0).readU16 .io 0x50) (8 + layerNum .bd) = false := by decide
theorem witness_ComposeLineWritesFrontTwo : (159 : Byte).toNat < 160 := by decide
theorem witness_TransparentColumnShowsBackdrop :
    let s := twoLayers 1
    (239 : Byte).toNat < 240 ∧ (159 : Byte).toNat < 160 ∧ (s.line.sprCol (239 : Byte).toNat).colour = 0 ∧
    ∀ b : Nat, b < 4 → (s.line.bgCol b (239 : Byte).toNat).colour = 0 := by decide
theorem witness_RenderFrameDispatch :
    ((0 : Word).toNat = 0 ∧ (1 : Word).toNat = 1 ∧ (2 : Word).toNat = 2 ∧ (7 : Word).toNat = 7) ∧
    (3 : Word).toNat ∉ [0, 1, 2, 7] ∧ (0xFFFFFFFF : Word).toNat ∉ [0, 1, 2, 7] := by decide
theorem witness_ForcedBlankFillsAll :
    bit (0x0080 : Half) 7 = true ∧ bit (0x11 : Byte) 7 = false ∧ State.reset.m0.g.forcedBlank = false :=
  ⟨by decide, by decide, m0_forcedBlank_of_blank _ rfl⟩
theorem witness_ForcedBlankFrames :
    bit ((host [w16 .io 0 0x0080]).readU16 .io 0) 7 = true ∧ bit (State.reset.readU8 .vramDmg 0x20A0) 7 = false := by decide

/-- A layout that places every field at VRAM offset 0: there the record of a VRAM that starts with 1 has forced blank. Whether a
state has it under the OPEN layout nothing here says (assumption 7). -/
theorem witness_mode0_forcedBlank :
    (m0Record ⟨fun _ => ⟨0, .w1, 0, 8⟩, 0⟩ (Memory.write 0 [] 0 1)).g.forcedBlank = true := by decide

/-- Under a layout that places every field in 12 bits of the two bytes at offset 0: a signed field is negative when bit 11 is
set, an s16 one too, and a field past `VRAM_SIZE` is 0. -/
theorem test_m0Record_signed :
    let v := Memory.writeBlock 0 [] 0 [0x00, 0xF8]
    let M := m0Record ⟨fun _ => ⟨0, .w2, 0, 12⟩, 7⟩ v
    (M.spr 0).x = -2048 ∧ (M.saff 1).pa = -2048 ∧ (M.lineAffine 0 3).tx = -2048 ∧ (M.spr 0).tile = 2048 ∧
    (m0Record ⟨fun _ => ⟨0x3FFFFF, .w2, 0, 12⟩, 7⟩ v).g.objOn = false ∧ M.tilemapEntries = 7 := by decide +kernel
theorem witness_GbaTextFrame : bit (p1.readU16 .io 0) 7 = false := by decide +kernel
theorem witness_GbaMixedFrame : bit (p5.readU16 .io 0) 7 = false := by decide +kernel
theorem witness_DmgFrame : bit (dmgSolid.readU8 .vramDmg 0x20A0) 7 = true := by decide +kernel
theorem witness_DmgSpriteSelection :
    bit (State.reset.readU8 .vramDmg 0x20A0) 1 = false ∧ bit ((dmgSprites 0 0).readU8 .vramDmg 0x20A0) 1 = true := by
  decide +kernel
theorem witness_DmgPixelColour :
    let s := dmgSprites 0xC0 0x0C
    let entry := fun (i : Byte) (x : Byte) => Instr.dmgSpriteEntry (s.readU8 .vramDmg (0x2000 + 4 * i.toNat))
      (s.readU8 .vramDmg (0x2001 + 4 * i.toNat)) (s.readU8 .vramDmg (0x2002 + 4 * i.toNat))
      (s.readU8 .vramDmg (0x2003 + 4 * i.toNat)) x 0
    ((159 : Byte).toNat < 160 ∧ (143 : Byte).toNat < 144) ∧
    exec (entry 0 0) s = .next { s with result := .indexIfCovered (some 1) } ∧
    exec (entry 0 159) s = .next { s with result := .indexIfCovered none } := ⟨by decide, rfl, rfl⟩
theorem witness_Mode0Frame :
    let s := fun w : Word => host [.frameWidth w]
    ((s 0).m0.g.forcedBlank = false ∧ (s 0).regs.frameWidth.toNat < 1) ∧ 1280 < (s 1281).regs.frameWidth.toNat ∧
    (1 ≤ (s 1).regs.frameWidth.toNat ∧ (s 1280).regs.frameWidth.toNat ≤ 1280) ∧ (s 1).m0.g.forcedBlank = false ∧
    (s 1280).m0.g.forcedBlank = false ∧ (s 1281).m0.g.forcedBlank = false :=
  ⟨⟨m0_forcedBlank_of_blank _ rfl, by decide⟩, by decide, by decide, m0_forcedBlank_of_blank _ rfl,
    m0_forcedBlank_of_blank _ rfl, m0_forcedBlank_of_blank _ rfl⟩
theorem witness_M0BgLineColumns : (3 : Byte).toNat < 4 ∧ (359 : Half).toNat < 360 := by decide
theorem witness_M0SpriteLineColumns : (359 : Half).toNat < 360 := by decide
theorem witness_M0ComposeLineWritesFrontTwo : (359 : Half).toNat < 360 := by decide

/-- A state with a command pending, canonical and with one pixel on the screen. -/
def pending : State := { host [w16 .io 8 0x0804] with fb := [(0, 0xFFFFFFFF)], port := [0x05] }

theorem witness_StepKeepsCanonical :
    pending.canonical ∧ step pending = .next { pending with port := [], result := .framebuffer } :=
  ⟨by unfold State.canonical; decide, rfl⟩
/-- `GET_FRAMEBUFFER` pending. -/
theorem witness_StepKeepsColoursOpaque :
    pending.coloursOpaque ∧ ¬ pending.hostWritesFb ∧
    step pending = .next { pending with port := [], result := .framebuffer } := by
  refine ⟨⟨fun i => ?_, fun b x => Or.inl ?_, fun x => Or.inl rfl, fun w h => by cases h⟩, ?_, rfl⟩
  · show opaqueOrClear (Memory.read 0 [(0, 0xFFFFFFFF)] i)
    rw [Memory.read_cons]
    split
    · exact Or.inr (by decide)
    · exact Or.inl rfl
  · show (Memory.read BgCol.transparent (LineBuffers.cleared.bg b) x).colour = 0
    unfold LineBuffers.bg
    split <;> rfl
  · rintro ⟨op, rest, h, _⟩
    have e : decode pending.port = .ok (.getFramebuffer, []) := by decide
    rw [e] at h
    cases h
/-- A host write that makes a framebuffer word half transparent (assumption 16). -/
theorem witness_StepKeepsColoursOpaque_hostWrite :
    { State.reset with port := encode (.hostWrite (w8 .fb 3 0x80)) }.hostWritesFb ∧
    (step { State.reset with port := encode (.hostWrite (w8 .fb 3 0x80)) } =
      .next { State.reset with fb := [(0, 0x80000000)] }) :=
  ⟨⟨w8 .fb 3 0x80, [], by decide, by decide⟩, rfl⟩
theorem witness_OnlyTheHostWritesInputs :
    exec .getFramebuffer State.reset = .next { State.reset with result := .framebuffer } ∧
    ∀ op : HostOp, Instr.getFramebuffer = .hostWrite op → HostOp.writesFb op = true := ⟨rfl, fun op h => by cases h⟩

/-- Two states of mode 1 that differ past the GBA view only, and two of mode 7 that differ past the DMG record only. -/
theorem witness_FrameIgnoresWhatItsModeDoesNotRead (mode : Word) (limit : Word) (o : Nat) (h : (o : Int) < limit.toInt) :
    let s := host [.mode mode]
    let t := s.hostWrite (w8 .vram limit 0xFF)
    t.regs = s.regs ∧ (∀ i : Nat, t.fbWord i = s.fbWord i) ∧ t.regionByte .vram o = s.regionByte .vram o ∧
    (∀ r : Region, r ≠ .vram → ∀ a : Nat, t.regionByte r a = s.regionByte r a) := by
  intro s t
  obtain ⟨h2, _, _, _, h1, _⟩ := State.memWrite_frame s .vram limit.toInt .w1 0xFF
  refine ⟨h2, fun i => ?_, ?_, fun r hr a => ?_⟩
  · show Memory.read 0 (s.memWrite .vram limit.toInt .w1 0xFF).fb i = _
    rw [h1 (by decide)]; rfl
  · show (s.memWrite .vram limit.toInt .w1 0xFF).regionByte .vram o = _
    rw [State.memWrite_regionByte, if_neg (by omega)]
  · show (s.memWrite .vram limit.toInt .w1 0xFF).regionByte r a = _
    rw [State.memWrite_regionByte, if_neg (fun e => hr e.1)]
theorem witness_FrameIgnores_modes :
    (host [.mode 1]).regs.mode.toNat = 1 ∧ (host [.mode 7]).regs.mode.toNat = 7 ∧ (host [.mode 0]).regs.mode.toNat = 0 ∧
    (0x18000 : Word).toInt = 0x18000 ∧ (0x20A8 : Word).toInt = 0x20A8 := by decide

end Sys2Proof.Tests
end

section
/-! The bounds-checked reads of 40_memory_views.md as numbers. The laws of the reads (`State.readU8_eq` and its two sisters) say
which bytes a read joins; here the joined bytes become one little-endian value (20_memory.md R200), as the caller finds it in
`result`. -/

namespace Sys2Proof.Machine

open Sys2Proof

/-! ### The read operations run -/

theorem exec_readU8 (v : View) (off : Word) (s : State) :
    exec (.readU8 v off) s = .next { s with result := .value ((s.readU8 v off.toInt).setWidth 32) } := rfl

theorem exec_readU16Le (v : View) (off : Word) (s : State) :
    exec (.readU16Le v off) s = .next { s with result := .value ((s.readU16 v off.toInt).setWidth 32) } := rfl

theorem exec_readU32Le (v : View) (off : Word) (s : State) :
    exec (.readU32Le v off) s = .next { s with result := .value (s.readU32 v off.toInt) } := rfl

/-! ### Joined bytes as one little-endian value -/

/-- Extending what a bounds-checked read gives: its number where the check holds, else still 0 as a whole. -/
theorem setWidth_ite_zero {m : Nat} (n : Nat) (inside : Prop) [Decidable inside] (x : BitVec m) :
    (if inside then x else 0).setWidth n = if inside then BitVec.ofNat n x.toNat else 0 := by
  split
  · exact (BitVec.ofNat_toNat n x).symm
  · exact BitVec.setWidth_zero n m

/-- 40_memory_views.md R401. -/
theorem State.readU8_setWidth (s : State) (v : View) (off : Int) :
    (s.readU8 v off).setWidth 32 =
      if 0 ≤ off ∧ off + 1 ≤ viewSize v then BitVec.ofNat 32 (s.viewByte v off.toNat).toNat else 0 := by
  rw [State.readU8_eq, setWidth_ite_zero]

/-- 40_memory_views.md R402. -/
theorem State.readU16_setWidth (s : State) (v : View) (off : Int) :
    (s.readU16 v off).setWidth 32 =
      if 0 ≤ off ∧ off + 2 ≤ viewSize v then
        BitVec.ofNat 32 ((s.viewByte v off.toNat).toNat + (s.viewByte v (off.toNat + 1)).toNat * 2 ^ 8)
      else 0 := by
  rw [State.readU16_eq, setWidth_ite_zero, half_toNat, Nat.add_comm]

/-- 40_memory_views.md R403. -/
theorem State.readU32_eq_ofNat (s : State) (v : View) (off : Int) :
    s.readU32 v off =
      if 0 ≤ off ∧ off + 4 ≤ viewSize v then
        BitVec.ofNat 32 ((s.viewByte v off.toNat).toNat + (s.viewByte v (off.toNat + 1)).toNat * 2 ^ 8 +
          (s.viewByte v (off.toNat + 2)).toNat * 2 ^ 16 + (s.viewByte v (off.toNat + 3)).toNat * 2 ^ 24)
      else 0 := by
  rw [← BitVec.setWidth_eq (s.readU32 v off), State.readU32_eq, setWidth_ite_zero, word_toNat]
  congr 2
  ring

/-! ### The obligation -/

/-- Settles O11: each read operation runs its view read, whose joined bytes are the little-endian value. -/
theorem boundsCheckedReads : Obligations.BoundsCheckedReads := by
  intro v off s
  refine ⟨?readU8, ?readU16Le, ?readU32Le⟩
  case readU8 => rw [exec_readU8, State.readU8_setWidth]; rfl
  case readU16Le => rw [exec_readU16Le, State.readU16_setWidth]; rfl
  case readU32Le => rw [exec_readU32Le, State.readU32_eq_ofNat]; rfl

end Sys2Proof.Machine
end

section
/-! The tile decoders and the flip of 41_pixel_decoders.md. The bit fields of a 4 bpp byte become the remainder
and the quotient by 16. The flip rows are one family over the two flip bits (`flipRow`), and that a row undoes itself
comes from the involution of `flipPoint`. -/

namespace Sys2Proof.Machine

open Sys2Proof

/-! ### The decoder rows run -/

theorem exec_dec4 (v : View) (ta : Word) (px py : Byte) (s : State) :
    exec (.dec4 v ta px py) s = .next { s with result := .index (dec4 (s.readU8 v) ta.toInt px.toNat py.toNat) } := rfl

theorem exec_dec8 (v : View) (ta : Word) (px py : Byte) (s : State) :
    exec (.dec8 v ta px py) s = .next { s with result := .index (dec8 (s.readU8 v) ta.toInt px.toNat py.toNat) } := rfl

theorem exec_decode (v : View) (ta : Word) (px py : Byte) (bpp8 : Bool) (s : State) :
    exec (.decode v ta px py bpp8) s =
      .next { s with result := .index (decodePixel (s.readU8 v) ta.toInt px.toNat py.toNat bpp8) } := rfl

/-- 41_pixel_decoders.md R455: DECODE is the row that `bppRow` selects. -/
theorem exec_decode_eq_bppRow (v : View) (ta : Word) (px py : Byte) (bpp8 : Bool) (s : State) :
    exec (.decode v ta px py bpp8) s = exec (bppRow bpp8 v ta px py) s := by
  cases bpp8
  case false => exact (exec_decode ..).trans (exec_dec4 ..).symm
  case true => exact (exec_decode ..).trans (exec_dec8 ..).symm

/-! ### The nibble of a 4 bpp row -/

theorem bitsN_low_nibble (b : Byte) : bitsN b 0 4 = b.toNat % 16 := by
  rw [bitsN_eq, pow_zero, Nat.div_one]; rfl

theorem bitsN_high_nibble (b : Byte) : bitsN b 4 4 = b.toNat / 16 := by
  rw [bitsN_eq]
  exact Nat.mod_eq_of_lt (Nat.div_lt_of_lt_mul b.isLt)

/-- 41_pixel_decoders.md R451: the index as the remainder or the quotient of the byte by 16. -/
theorem dec4_eq_ofNat (rd : Int → Byte) (ta : Int) (px py : Nat) :
    dec4 rd ta px py =
      BitVec.ofNat 8 (if px % 2 = 0 then (rd (ta + py * 4 + (px / 2 : Nat))).toNat % 16
        else (rd (ta + py * 4 + (px / 2 : Nat))).toNat / 16) := by
  have even_iff : (px : Int) % 2 = 0 ↔ px % 2 = 0 := by omega
  unfold dec4
  simp only [even_iff, setWidth_bits_toNat, bitsN_low_nibble, bitsN_high_nibble]
  exact (apply_ite (BitVec.ofNat 8) ..).symm

/-- Settles O17: DEC4 and DEC8 by their equations, and DECODE by the row it selects. -/
theorem tilePixelDecoders : Obligations.TilePixelDecoders := by
  intro v ta px py s _ _ x y b4 i4 i8
  have nibble : exec (.dec4 v ta px py) s = .next { s with result := .index i4 } := by
    rw [exec_dec4, dec4_eq_ofNat]
  have byte : exec (.dec8 v ta px py) s = .next { s with result := .index i8 } := exec_dec8 ..
  exact ⟨nibble, byte, (exec_decode_eq_bppRow ..).trans nibble, (exec_decode_eq_bppRow ..).trans byte⟩

/-! ### The flip -/

/-- Mirroring one coordinate under a flip bit, twice. -/
theorem ite_mirror_mirror (f : Bool) (a w : Int) :
    (if f then w - 1 - (if f then w - 1 - a else a) else (if f then w - 1 - a else a)) = a := by
  cases f
  case false => rfl
  case true => exact sub_sub_cancel (w - 1) a

/-- 41_pixel_decoders.md R452: `flip(flip(p)) = p`. -/
theorem flipPoint_flipPoint (px py wpx hpx : Int) (hf vf : Bool) :
    flipPoint (flipPoint px py hf vf wpx hpx).1 (flipPoint px py hf vf wpx hpx).2 hf vf wpx hpx = (px, py) :=
  Prod.ext (ite_mirror_mirror hf px wpx) (ite_mirror_mirror vf py hpx)

/-- The two flip bits choose the row; the row gives the flipped point. -/
theorem exec_flipRow (hf vf : Bool) (px py wpx hpx : Half) (s : State) :
    exec (flipRow hf vf px py wpx hpx) s = .next { s with result := flipResult hf vf px py wpx hpx } := by
  cases hf <;> cases vf <;> rfl

/-- A coordinate inside its extent, mirrored in 16 bits under a flip bit, does not wrap. -/
theorem toNat_ite_mirror (f : Bool) {a w : Half} (inside : a.toNat < w.toNat) :
    ((if f then w - 1 - a else a).toNat : Int) = if f then (w.toNat : Int) - 1 - a.toNat else a.toNat := by
  cases f
  case false => rfl
  case true => simp only [if_true]; bv_omega

/-- 41_pixel_decoders.md R452: a flip row, given the mirror image of a point inside the extents, gives the point. -/
theorem flipResult_mirror (hf vf : Bool) {px py wpx hpx : Half} (hx : px.toNat < wpx.toNat) (hy : py.toNat < hpx.toNat) :
    flipResult hf vf (if hf then wpx - 1 - px else px) (if vf then hpx - 1 - py else py) wpx hpx =
      .point px.toNat py.toNat := by
  unfold flipResult
  rw [toNat_ite_mirror hf hx, toNat_ite_mirror vf hy]
  exact congrArg (fun p : Int × Int => Result.point p.1 p.2) (flipPoint_flipPoint px.toNat py.toNat wpx.toNat hpx.toNat hf vf)

/-- Settles O19: each flip row as a member of `flipRow`, on the point and on its mirror image. -/
theorem flipRows : Obligations.FlipRows := by
  refine ⟨fun px py wpx hpx hf vf => ⟨rfl, flipPoint_flipPoint px py wpx hpx hf vf⟩, ?rows⟩
  case rows =>
    intro px py wpx hpx s hx hy x y fx fy
    have undone (hf vf : Bool) :
        exec (flipRow hf vf (if hf then wpx - 1 - px else px) (if vf then hpx - 1 - py else py) wpx hpx) s =
          .next { s with result := .point x y } := by
      rw [exec_flipRow, flipResult_mirror hf vf hx hy]
    exact ⟨exec_flipRow false false .., exec_flipRow true false .., exec_flipRow false true .., exec_flipRow true true ..,
      undone true false, undone false true, undone true true⟩

end Sys2Proof.Machine
end

section
/-! The mode-0 palette conversion of 42_palette.md R505. The model joins the four bytes of the output word; the spec adds up the
shifted channels. `rgba_eq_ofNat` ties the two readings for every colour. -/

namespace Sys2Proof.Machine

open Sys2Proof

theorem exec_rgb888ToRgba (r g b : Byte) (s : State) :
    exec (.rgb888ToRgba r g b) s = .next { s with result := .colour (rgba r g b) } := rfl

/-- 30_encoding.md R307: the output word as the number `A<<24 | B<<16 | G<<8 | R` under `A = 0xFF`. -/
theorem rgba_eq_ofNat (r g b : Byte) :
    rgba r g b = BitVec.ofNat 32 (0xFF000000 + b.toNat * 2 ^ 16 + g.toNat * 2 ^ 8 + r.toNat) := by
  have joined : (rgba r g b).toNat = 0xFF000000 + b.toNat * 2 ^ 16 + g.toNat * 2 ^ 8 + r.toNat := word_toNat r g b 0xFF#8
  rw [← joined, BitVec.ofNat_toNat, BitVec.setWidth_eq]

/-- Settles O22: the row runs `rgba`, whose joined bytes are the sum of the shifted channels. -/
theorem rgb888Conversion : Obligations.Rgb888Conversion := by
  intro r g b s w
  rw [exec_rgb888ToRgba, rgba_eq_ofNat]

end Sys2Proof.Machine
end

section
/-! The command codec. Each operand list has one law: its reader gives back what its writer wrote. Each selector has one law: which row
its bits choose. Both the round trip and the selector rule are assembled from these; that the decoder looks at no byte it does not
take is a property closed under the ways parsers are combined. -/

namespace Sys2Proof

/-! ### Operand lists -/

theorem parseReadOp_put (mk : View → Word → Instr) (v : View) (off : Word) (r : List Byte) :
    parseReadOp mk (viewCode v :: (putWord off ++ r)) = .ok (mk v off, r) := by
  simp [parseReadOp, Parser.bind_run, Parser.map_run]

theorem parseDecOp_put (mk : View → Word → Byte → Byte → Instr) (v : View) (ta : Word) (px py : Byte) (r : List Byte) :
    parseDecOp mk (viewCode v :: (putWord ta ++ px :: py :: r)) = .ok (mk v ta px py, r) := by
  simp [parseDecOp, Parser.bind_run, Parser.map_run]

theorem parseFlipOp_put (mk : Half → Half → Half → Half → Instr) (px py wpx hpx : Half) (r : List Byte) :
    parseFlipOp mk (putHalf px ++ (putHalf py ++ (putHalf (wpx - 1) ++ (putHalf (hpx - 1) ++ r)))) =
      .ok (mk px py wpx hpx, r) := by
  have extent (w : Half) : w - 1 + 1 = w := BitVec.sub_add_cancel w 1
  simp only [parseFlipOp, Parser.bind_run, takeHalf_put, extent, Parser.pure_run]

theorem parseAffineOp_put (mk : Byte → Byte → Instr) (n y : Byte) (r : List Byte) :
    parseAffineOp mk ((n - 2) :: y :: r) = .ok (mk n y, r) := by
  have number : n - 2 + 2 = n := BitVec.sub_add_cancel n 2
  simp only [parseAffineOp, Parser.bind_run, takeByte_cons, number, Parser.pure_run]

theorem parseSpriteOp_put (mk : Half → Half → Byte → Instr) (a1 a2 : Half) (y : Byte) (r : List Byte) :
    parseSpriteOp mk (putHalf a1 ++ (putHalf a2 ++ y :: r)) = .ok (mk a1 a2 y, r) := by
  simp [parseSpriteOp, Parser.bind_run, Parser.map_run]

theorem parseCandidateOp_put (mk : Byte → Byte → Half → Instr) (sx prio : Byte) (c : Half) (r : List Byte) :
    parseCandidateOp mk (sx :: prio :: (putHalf c ++ r)) = .ok (mk sx prio c, r) := by
  simp [parseCandidateOp, Parser.bind_run, Parser.map_run]

theorem parseByteOp_cons (mk : Byte → Instr) (a : Byte) (r : List Byte) : parseByteOp mk (a :: r) = .ok (mk a, r) := rfl

theorem parseTwoBytesOp_cons (mk : Byte → Byte → Instr) (a b : Byte) (r : List Byte) :
    parseTwoBytesOp mk (a :: b :: r) = .ok (mk a b, r) := rfl

theorem parseThreeBytesOp_cons (mk : Byte → Byte → Byte → Instr) (a b c : Byte) (r : List Byte) :
    parseThreeBytesOp mk (a :: b :: c :: r) = .ok (mk a b c, r) := rfl

theorem parseObjSizeOp_put (mk : Bool → Bool → Byte → Half → Instr) (affine dbl : Bool) (y : Byte) (x : Half)
    (r : List Byte) :
    parseObjSizeOp mk (boolCode affine :: boolCode dbl :: y :: (putHalf x ++ r)) = .ok (mk affine dbl y x, r) := by
  simp [parseObjSizeOp, Parser.bind_run, Parser.map_run]

theorem parseEffectOp_put (mk : Contributor → Option Contributor → Instr) (top : Contributor) (bot : Option Contributor)
    (r : List Byte) : parseEffectOp mk (putContributor top ++ (putOptContributor bot ++ r)) = .ok (mk top bot, r) := by
  simp [parseEffectOp, Parser.bind_run, Parser.map_run]

theorem parseM0BgOp_put (mk : Byte → Half → Instr) (b : Byte) (y : Half) (r : List Byte) :
    parseM0BgOp mk (b :: (putHalf y ++ r)) = .ok (mk b y, r) := by
  simp [parseM0BgOp, Parser.bind_run, Parser.map_run]

theorem parseHalfOp_put (mk : Half → Instr) (y : Half) (r : List Byte) : parseHalfOp mk (putHalf y ++ r) = .ok (mk y, r) := by
  simp [parseHalfOp, Parser.bind_run]

/-! ### Which row a selector's bits choose -/

/-- 30_encoding.md R323, attr0 bits 9:8. -/
theorem spriteRow_eq (a0 : Half) : spriteRow a0 =
    match selBits a0 8 2 with
    | 0 => .spriteNormal a0
    | 1 => .spriteAffine a0
    | 2 => .spriteHidden a0
    | _ => .spriteAffineDbl a0 := by
  rw [selBits_two]
  unfold spriteRow
  cases a0.getLsbD (8 + 1) <;> cases a0.getLsbD 8 <;> rfl

/-- 30_encoding.md R323, BLDCNT bits 7:6. -/
theorem effectRow_eq (w : Half) : effectRow w =
    match selBits w 6 2 with
    | 0 => .effectNone w
    | 1 => .effectAlpha w
    | 2 => .effectBrighten w
    | _ => .effectDarken w := by
  rw [selBits_two]
  unfold effectRow
  cases w.getLsbD (6 + 1) <;> cases w.getLsbD 6 <;> rfl

/-- A selector bit that has the value of its row. -/
theorem getLsbD_of_selBits_one {n : Nat} {w : BitVec n} {i : Nat} (h : selBits w i 1 = 1) : w.getLsbD i = true :=
  Bool.toNat_eq_one.mp ((selBits_one w i).symm.trans h)

theorem getLsbD_of_selBits_zero {n : Nat} {w : BitVec n} {i : Nat} (h : selBits w i 1 = 0) : w.getLsbD i = false :=
  Bool.toNat_eq_zero.mp ((selBits_one w i).symm.trans h)

/-- 30_encoding.md R317: a word that is no mode of the others' is the NOP row's. -/
theorem modeRow_nop {m : Word} (h : (Instr.renderFrameNop m).wellFormed = true) : modeRow m = .renderFrameNop m := by
  simp only [Instr.wellFormed, Bool.and_eq_true, decide_eq_true_eq] at h
  unfold modeRow
  split <;> simp_all

/-! ### Formats that begin with a selector word -/

theorem parseFormat_bgBpp (w : Half) (v : View) (ta : Word) (px py : Byte) (r : List Byte) :
    parseFormat 0x80 (putHalf w ++ viewCode v :: (putWord ta ++ px :: py :: r)) =
      .ok (if w.getLsbD 7 then .dec8 v ta px py else .dec4 v ta px py, r) := by
  refine (Parser.bind_ok (takeHalf_put w _) _).trans ((parseDecOp_put _ v ta px py r).trans ?_)
  unfold bppRow
  split <;> rfl

theorem parseFormat_objBpp (w : Half) (v : View) (ta : Word) (px py : Byte) (r : List Byte) :
    parseFormat 0x81 (putHalf w ++ viewCode v :: (putWord ta ++ px :: py :: r)) =
      .ok (if w.getLsbD 13 then .dec8 v ta px py else .dec4 v ta px py, r) := by
  refine (Parser.bind_ok (takeHalf_put w _) _).trans ((parseDecOp_put _ v ta px py r).trans ?_)
  unfold bppRow
  split <;> rfl

theorem parseFormat_affine (w : Half) (n y : Byte) (r : List Byte) :
    parseFormat 0x88 (putHalf w ++ (n - 2) :: y :: r) =
      .ok (if w.getLsbD 13 then .affineBgLineWrap w n y else .affineBgLineClip w n y, r) := by
  refine (Parser.bind_ok (takeHalf_put w _) _).trans ((parseAffineOp_put _ n y r).trans ?_)
  split <;> rfl

theorem parseFormat_sprite (a0 a1 a2 : Half) (y : Byte) (r : List Byte) :
    parseFormat 0x89 (putHalf a0 ++ (putHalf a1 ++ (putHalf a2 ++ y :: r))) = .ok (spriteRow a0 a1 a2 y, r) :=
  (Parser.bind_ok (takeHalf_put a0 _) _).trans (parseSpriteOp_put _ a1 a2 y r)

theorem parseFormat_effect (w : Half) (top : Contributor) (bot : Option Contributor) (r : List Byte) :
    parseFormat 0x8C (putHalf w ++ (putContributor top ++ (putOptContributor bot ++ r))) =
      .ok (effectRow w top bot, r) :=
  (Parser.bind_ok (takeHalf_put w _) _).trans (parseEffectOp_put _ top bot r)

theorem parseFormat_mode (m : Word) (r : List Byte) : parseFormat 0x8D (putWord m ++ r) = .ok (modeRow m, r) :=
  Parser.bind_ok (takeWord_put m r) _

theorem parseFormat_dmgTile (w t : Byte) (r : List Byte) :
    parseFormat 0x90 (w :: t :: r) = .ok (if w.getLsbD 4 then .dmgTileUnsigned w t else .dmgTileSigned w t, r) := by
  refine (parseByteOp_cons _ t r).trans ?_
  split <;> rfl

theorem parseFormat_dmgObj (w i : Byte) (r : List Byte) :
    parseFormat 0x91 (w :: i :: r) = .ok (if w.getLsbD 2 then .dmgObj16 w i else .dmgObj8 w i, r) := by
  refine (parseByteOp_cons _ i r).trans ?_
  split <;> rfl

theorem parseFormat_forcedBlankGba (w : Half) (r : List Byte) (on : w.getLsbD 7 = true) :
    parseFormat 0x8E (putHalf w ++ r) = .ok (.forcedBlankGba w, r) := by
  refine (Parser.bind_ok (takeHalf_put w r) _).trans ?_
  rw [on]; rfl

theorem parseFormat_forcedBlankDmg (w : Byte) (r : List Byte) (off : w.getLsbD 7 = false) :
    parseFormat 0x8F (w :: r) = .ok (.forcedBlankDmg w, r) := by
  refine (Parser.bind_ok (takeByte_cons w r) _).trans ?_
  rw [off]; rfl

/-! ### Formats of one operation -/

theorem parseFormat_hostWrite (op : HostOp) (r : List Byte) : parseFormat 0x03 (putHostOp op ++ r) = .ok (.hostWrite op, r) :=
  Parser.bind_ok (takeHostOp_put op r) _

theorem parseFormat_hostRead (reg : Region) (off : Word) (n : Width) (r : List Byte) :
    parseFormat 0x04 (regionCode reg :: (putWord off ++ widthCode n :: r)) = .ok (.hostRead reg off n, r) := by
  simp [parseFormat, Parser.bind_run, Parser.map_run]

theorem parseFormat_decDmg (ta : Word) (px py : Byte) (r : List Byte) :
    parseFormat 0x08 (putWord ta ++ px :: py :: r) = .ok (.decDmg ta px py, r) :=
  Parser.bind_ok (takeWord_put ta _) _

theorem parseFormat_decode (v : View) (ta : Word) (px py : Byte) (bpp8 : Bool) (r : List Byte) :
    parseFormat 0x09 (viewCode v :: (putWord ta ++ px :: py :: boolCode bpp8 :: r)) = .ok (.decode v ta px py bpp8, r) := by
  simp [parseFormat, Parser.bind_run, Parser.map_run]

theorem parseFormat_fetch (v : View) (ta : Word) (px py : Byte) (hf vf bpp8 : Bool) (r : List Byte) :
    parseFormat 0x0A (viewCode v :: (putWord ta ++ px :: py :: boolCode hf :: boolCode vf :: boolCode bpp8 :: r)) =
      .ok (.fetch v ta px py hf vf bpp8, r) := by
  simp [parseFormat, Parser.bind_run, Parser.map_run]

theorem parseFormat_windowIn (h v x y w hs : Half) (r : List Byte) :
    parseFormat 0x2B (putHalf h ++ (putHalf v ++ (putHalf x ++ (putHalf y ++ (putHalf w ++ (putHalf hs ++ r)))))) =
      .ok (.windowIn h v x y w hs, r) := by
  simp [parseFormat, Parser.bind_run, Parser.map_run]

theorem parseFormat_semiForcedAlpha (t : Word) (bot : Contributor) (r : List Byte) :
    parseFormat 0x31 (putWord t ++ (putContributor bot ++ r)) = .ok (.semiForcedAlpha t bot, r) :=
  (Parser.bind_ok (takeWord_put t _) _).trans (Parser.bind_ok (takeContributor_put bot r) _)

theorem parseFormat_dmgPixel (x y : Byte) (sel r : List Byte) (short : sel.length ≤ 10) :
    parseFormat 0x42 (x :: y :: BitVec.ofNat 8 sel.length :: (sel ++ r)) = .ok (.dmgPixel x y sel, r) := by
  have count : (BitVec.ofNat 8 sel.length).toNat = sel.length := Nat.mod_eq_of_lt (by omega)
  have read : takeBytes (BitVec.ofNat 8 sel.length).toNat (sel ++ r) = .ok (sel, r) := by rw [count, takeBytes_put]
  exact Parser.bind_ok read fun sel => (pure (Instr.dmgPixel x y sel) : Parser Instr)

theorem parseFormat_objSizeReserved (size : Byte) (r : List Byte) (row : size.toNat < 4) :
    parseFormat 0x8B ((0b1100 + size) :: r) = .ok (.objSizeReserved size, r) := by
  obtain rfl | rfl | rfl | rfl : size = 0 ∨ size = 1 ∨ size = 2 ∨ size = 3 := by bv_omega
  all_goals rfl

/-! ### The round trip -/

/-- The format of an instruction's first byte reads the instruction back from the bytes after it. -/
theorem parse_encode (i : Instr) (rest : List Byte) (hw : i.wellFormed = true) :
    parse (encode i ++ rest) = .ok (i, rest) := by
  cases i
  case readU8 v off | readU16Le v off | readU32Le v off => exact parseReadOp_put _ v off rest
  case hostWrite op => exact parseFormat_hostWrite op rest
  case hostRead r off n => exact parseFormat_hostRead r off n rest
  case getFramebuffer | renderFrame | forcedBlankFill | forcedBlankMode0 => rfl
  case dec4 v ta px py => exact parseFormat_bgBpp 0x0000 v ta px py rest
  case dec8 v ta px py => exact parseFormat_bgBpp 0x0080 v ta px py rest
  case decDmg ta px py => exact parseFormat_decDmg ta px py rest
  case decode v ta px py bpp8 => exact parseFormat_decode v ta px py bpp8 rest
  case fetch v ta px py hf vf bpp8 => exact parseFormat_fetch v ta px py hf vf bpp8 rest
  case flipNone px py wpx hpx | flipH px py wpx hpx | flipV px py wpx hpx | flipHV px py wpx hpx =>
    exact parseFlipOp_put _ px py wpx hpx rest
  case rgb555ToRgba c | m0SpriteLine c | m0ComposeLine c => exact parseHalfOp_put _ c rest
  case dmgShade | textBgLine | windowEnables => exact parseTwoBytesOp_cons _ _ _ rest
  case rgb888ToRgba => exact parseThreeBytesOp_cons _ _ _ _ rest
  case spriteLine | composeLine => exact parseByteOp_cons _ _ rest
  case affineBgLineWrap cnt n y =>
    simp only [Instr.wellFormed, affineOk, Bool.and_eq_true, decide_eq_true_eq] at hw
    exact (parseFormat_affine cnt n y rest).trans (by rw [getLsbD_of_selBits_one hw.1.1]; rfl)
  case affineBgLineClip cnt n y =>
    simp only [Instr.wellFormed, affineOk, Bool.and_eq_true, decide_eq_true_eq] at hw
    exact (parseFormat_affine cnt n y rest).trans (by rw [getLsbD_of_selBits_zero hw.1.1]; rfl)
  case spriteNormal a0 a1 a2 y | spriteAffine a0 a1 a2 y | spriteAffineDbl a0 a1 a2 y | spriteHidden a0 a1 a2 y =>
    refine (parseFormat_sprite a0 a1 a2 y rest).trans ?_
    simp only [Instr.wellFormed, spriteOk, Bool.and_eq_true, decide_eq_true_eq] at hw
    rw [spriteRow_eq, hw.1]; rfl
  case omodeNormal sx prio c | omodeSemi sx prio c => exact parseCandidateOp_put _ sx prio c rest
  case omodeObjwin sx | omodeHidden sx => exact parseByteOp_cons _ sx rest
  case objSizeSquare8x8 a d y x | objSizeSquare16x16 a d y x | objSizeSquare32x32 a d y x | objSizeSquare64x64 a d y x
    | objSizeWide16x8 a d y x | objSizeWide32x8 a d y x | objSizeWide32x16 a d y x | objSizeWide64x32 a d y x
    | objSizeTall8x16 a d y x | objSizeTall8x32 a d y x | objSizeTall16x32 a d y x | objSizeTall32x64 a d y x =>
    exact parseObjSizeOp_put _ a d y x rest
  case objSizeReserved size => exact parseFormat_objSizeReserved size rest (of_decide_eq_true hw)
  case windowIn h v x y w hs => exact parseFormat_windowIn h v x y w hs rest
  case effectNone w top bot | effectAlpha w top bot | effectBrighten w top bot | effectDarken w top bot =>
    refine (parseFormat_effect w top bot rest).trans ?_
    simp only [Instr.wellFormed, effectOk, Bool.and_eq_true, decide_eq_true_eq] at hw
    rw [effectRow_eq, hw.1.1]; rfl
  case semiForcedAlpha t bot => exact parseFormat_semiForcedAlpha t bot rest
  case renderFrameMode0 | renderFrameGbaText | renderFrameGbaMixed | renderFrameDmg => exact parseFormat_mode _ rest
  case renderFrameNop m => exact (parseFormat_mode m rest).trans (by rw [modeRow_nop hw])
  case forcedBlankGba w => exact parseFormat_forcedBlankGba w rest (getLsbD_of_selBits_one (of_decide_eq_true hw))
  case forcedBlankDmg w => exact parseFormat_forcedBlankDmg w rest (getLsbD_of_selBits_zero (of_decide_eq_true hw))
  case dmgTileUnsigned w t =>
    exact (parseFormat_dmgTile w t rest).trans (by rw [getLsbD_of_selBits_one (of_decide_eq_true hw)]; rfl)
  case dmgTileSigned w t =>
    exact (parseFormat_dmgTile w t rest).trans (by rw [getLsbD_of_selBits_zero (of_decide_eq_true hw)]; rfl)
  case dmgObj8 w i =>
    simp only [Instr.wellFormed, Bool.and_eq_true, decide_eq_true_eq] at hw
    exact (parseFormat_dmgObj w i rest).trans (by rw [getLsbD_of_selBits_zero hw.1]; rfl)
  case dmgObj16 w i =>
    simp only [Instr.wellFormed, Bool.and_eq_true, decide_eq_true_eq] at hw
    exact (parseFormat_dmgObj w i rest).trans (by rw [getLsbD_of_selBits_one hw.1]; rfl)
  case dmgSpriteEntry => rfl
  case dmgPixel x y sel =>
    simp only [Instr.wellFormed, Bool.and_eq_true, decide_eq_true_eq] at hw
    exact parseFormat_dmgPixel x y sel rest hw.1.2
  case m0BgText b y | m0BgAffine b y => exact parseM0BgOp_put _ b y rest

/-- The decoder keeps what the formats read when it is well formed. -/
theorem decode_eq_ok_iff (bs rest : List Byte) (i : Instr) :
    decode bs = .ok (i, rest) ↔ parse bs = .ok (i, rest) ∧ i.wellFormed = true := by
  unfold decode
  rcases parse bs with e | ⟨j, r⟩
  · simp
  · by_cases hw : j.wellFormed = true
    · simp only [hw, if_true, Except.ok.injEq, Prod.mk.injEq]
      exact ⟨fun h => ⟨h, h.1 ▸ hw⟩, And.left⟩
    · simp only [hw, if_false, reduceCtorEq, Except.ok.injEq, Prod.mk.injEq, false_iff]
      rintro ⟨⟨rfl, -⟩, hw'⟩
      exact hw hw'

/-- Settles O6: every format reads back what the encoder wrote, and the decoder keeps it because it is well formed. -/
theorem decodeEncodeRoundTrip : Obligations.DecodeEncodeRoundTrip :=
  fun i rest hw => (decode_eq_ok_iff _ rest i).2 ⟨parse_encode i rest hw, hw⟩

/-! ### The decoder looks at no byte it does not take -/

/-- A parser takes some bytes from the front, and reads the same from them whatever follows. -/
def Parser.ReadsPrefix {α : Type} (p : Parser α) : Prop :=
  ∀ (bs rest : List Byte) (a : α), p bs = .ok (a, rest) →
    ∃ used : List Byte, bs = used ++ rest ∧ ∀ rest' : List Byte, p (used ++ rest') = .ok (a, rest')

theorem Parser.ReadsPrefix.pure {α : Type} (a : α) : (pure a : Parser α).ReadsPrefix := by
  rintro bs rest b h
  rw [Parser.pure_run] at h
  cases h
  exact ⟨[], rfl, fun _ => rfl⟩

theorem Parser.ReadsPrefix.throw {α : Type} (e : DecodeError) : (throw e : Parser α).ReadsPrefix := by
  rintro bs rest b h
  rw [Parser.throw_run] at h
  cases h

theorem Parser.ReadsPrefix.bind {α β : Type} {p : Parser α} {f : α → Parser β} (hp : p.ReadsPrefix)
    (hf : ∀ a, (f a).ReadsPrefix) : (p >>= f).ReadsPrefix := by
  rintro bs rest b h
  obtain ⟨a, mid, first, second⟩ := Parser.of_bind_ok h
  obtain ⟨used, rfl, again⟩ := hp bs mid a first
  obtain ⟨used', rfl, again'⟩ := hf a mid rest b second
  refine ⟨used ++ used', (List.append_assoc ..).symm, fun rest' => ?_⟩
  rw [List.append_assoc, Parser.bind_ok (again _), again']

theorem takeByte_readsPrefix : takeByte.ReadsPrefix := by
  rintro (_ | ⟨b, bs⟩) rest a h
  · cases h
  · cases h; exact ⟨[b], rfl, fun _ => rfl⟩

theorem takeHalf_readsPrefix : takeHalf.ReadsPrefix := by
  rintro (_ | ⟨b0, _ | ⟨b1, bs⟩⟩) rest a h
  · cases h
  · cases h
  · cases h; exact ⟨[b0, b1], rfl, fun _ => rfl⟩

theorem takeWord_readsPrefix : takeWord.ReadsPrefix := by
  rintro (_ | ⟨b0, _ | ⟨b1, _ | ⟨b2, _ | ⟨b3, bs⟩⟩⟩⟩) rest a h
  · cases h
  · cases h
  · cases h
  · cases h
  · cases h; exact ⟨[b0, b1, b2, b3], rfl, fun _ => rfl⟩

theorem takeCode_readsPrefix {α : Type} (f : Nat → Option α) : (takeCode f).ReadsPrefix := by
  rintro (_ | ⟨b, bs⟩) rest a h
  · cases h
  · cases hv : f b.toNat with
    | none => simp [takeCode, hv] at h
    | some v =>
      simp only [takeCode, hv, Except.ok.injEq, Prod.mk.injEq] at h
      obtain ⟨rfl, rfl⟩ := h
      exact ⟨[b], rfl, fun rest' => by simp [takeCode, hv]⟩

theorem takeContributor_readsPrefix : takeContributor.ReadsPrefix :=
  (takeCode_readsPrefix _).bind fun _ => (takeCode_readsPrefix _).bind fun _ => takeWord_readsPrefix.bind fun _ => .pure _

theorem takeOptContributor_readsPrefix : takeOptContributor.ReadsPrefix := by
  refine (takeCode_readsPrefix _).bind fun present => ?_
  split
  · exact takeContributor_readsPrefix.bind fun _ => .pure _
  · exact .pure _

theorem takeBytes_readsPrefix (k : Nat) : (takeBytes k).ReadsPrefix := by
  induction k with
  | zero => exact .pure _
  | succ k ih => exact takeByte_readsPrefix.bind fun _ => ih.bind fun _ => .pure _

theorem takeHostOp_readsPrefix : takeHostOp.ReadsPrefix := by
  refine takeByte_readsPrefix.bind fun form => ?_
  split
  case h_1 =>
    exact
      (takeCode_readsPrefix _).bind fun _ => takeWord_readsPrefix.bind fun _ => (takeCode_readsPrefix _).bind fun _ =>
        takeWord_readsPrefix.bind fun _ => .pure _
  case h_2 =>
    exact
      (takeCode_readsPrefix _).bind fun _ => takeWord_readsPrefix.bind fun _ => takeWord_readsPrefix.bind fun _ =>
        takeByte_readsPrefix.bind fun _ => .pure _
  case h_3 | h_4 => exact takeWord_readsPrefix.bind fun _ => .pure _
  case h_5 => exact .throw _

theorem parseReadOp_readsPrefix (mk : View → Word → Instr) : (parseReadOp mk).ReadsPrefix :=
  (takeCode_readsPrefix _).bind fun _ => takeWord_readsPrefix.bind fun _ => .pure _

theorem parseDecOp_readsPrefix (mk : View → Word → Byte → Byte → Instr) : (parseDecOp mk).ReadsPrefix :=
  (takeCode_readsPrefix _).bind fun _ => takeWord_readsPrefix.bind fun _ => takeByte_readsPrefix.bind fun _ =>
    takeByte_readsPrefix.bind fun _ => .pure _

theorem parseFlipOp_readsPrefix (mk : Half → Half → Half → Half → Instr) : (parseFlipOp mk).ReadsPrefix :=
  takeHalf_readsPrefix.bind fun _ => takeHalf_readsPrefix.bind fun _ => takeHalf_readsPrefix.bind fun _ =>
    takeHalf_readsPrefix.bind fun _ => .pure _

theorem parseAffineOp_readsPrefix (mk : Byte → Byte → Instr) : (parseAffineOp mk).ReadsPrefix :=
  takeByte_readsPrefix.bind fun _ => takeByte_readsPrefix.bind fun _ => .pure _

theorem parseSpriteOp_readsPrefix (mk : Half → Half → Byte → Instr) : (parseSpriteOp mk).ReadsPrefix :=
  takeHalf_readsPrefix.bind fun _ => takeHalf_readsPrefix.bind fun _ => takeByte_readsPrefix.bind fun _ => .pure _

theorem parseCandidateOp_readsPrefix (mk : Byte → Byte → Half → Instr) : (parseCandidateOp mk).ReadsPrefix :=
  takeByte_readsPrefix.bind fun _ => takeByte_readsPrefix.bind fun _ => takeHalf_readsPrefix.bind fun _ => .pure _

theorem parseByteOp_readsPrefix (mk : Byte → Instr) : (parseByteOp mk).ReadsPrefix :=
  takeByte_readsPrefix.bind fun _ => .pure _

theorem parseTwoBytesOp_readsPrefix (mk : Byte → Byte → Instr) : (parseTwoBytesOp mk).ReadsPrefix :=
  takeByte_readsPrefix.bind fun _ => takeByte_readsPrefix.bind fun _ => .pure _

theorem parseThreeBytesOp_readsPrefix (mk : Byte → Byte → Byte → Instr) : (parseThreeBytesOp mk).ReadsPrefix :=
  takeByte_readsPrefix.bind fun _ => takeByte_readsPrefix.bind fun _ => takeByte_readsPrefix.bind fun _ => .pure _

theorem parseObjSizeOp_readsPrefix (mk : Bool → Bool → Byte → Half → Instr) : (parseObjSizeOp mk).ReadsPrefix :=
  (takeCode_readsPrefix _).bind fun _ => (takeCode_readsPrefix _).bind fun _ => takeByte_readsPrefix.bind fun _ =>
    takeHalf_readsPrefix.bind fun _ => .pure _

theorem parseEffectOp_readsPrefix (mk : Contributor → Option Contributor → Instr) : (parseEffectOp mk).ReadsPrefix :=
  takeContributor_readsPrefix.bind fun _ => takeOptContributor_readsPrefix.bind fun _ => .pure _

theorem parseM0BgOp_readsPrefix (mk : Byte → Half → Instr) : (parseM0BgOp mk).ReadsPrefix :=
  takeByte_readsPrefix.bind fun _ => takeHalf_readsPrefix.bind fun _ => .pure _

theorem parseHalfOp_readsPrefix (mk : Half → Instr) : (parseHalfOp mk).ReadsPrefix :=
  takeHalf_readsPrefix.bind fun _ => .pure _

theorem omodeRow_readsPrefix (a0 : Half) : (omodeRow a0).ReadsPrefix := by
  unfold omodeRow
  split
  case h_1 | h_2 => exact parseCandidateOp_readsPrefix _
  case h_3 | h_4 => exact parseByteOp_readsPrefix _

theorem objSizeRow_readsPrefix (sel : Nat) : (objSizeRow sel).ReadsPrefix := by
  unfold objSizeRow
  split
  case h_13 | h_14 | h_15 | h_16 => exact .pure _
  case h_17 => exact .throw _
  all_goals exact parseObjSizeOp_readsPrefix _

/-- Every format looks only at the bytes it takes. -/
theorem parseFormat_readsPrefix (tag : Nat) : (parseFormat tag).ReadsPrefix := by
  unfold parseFormat
  split
  case h_1 | h_2 | h_3 => exact parseReadOp_readsPrefix _
  case h_4 => exact takeHostOp_readsPrefix.bind fun _ => .pure _
  case h_5 => exact (takeCode_readsPrefix _).bind fun _ => takeWord_readsPrefix.bind fun _ => (takeCode_readsPrefix _).bind fun _ => .pure _
  case h_6 => exact .pure _
  case h_7 =>
    exact
      takeWord_readsPrefix.bind fun _ => takeByte_readsPrefix.bind fun _ => takeByte_readsPrefix.bind fun _ => .pure _
  case h_8 =>
    exact
      (takeCode_readsPrefix _).bind fun _ => takeWord_readsPrefix.bind fun _ => takeByte_readsPrefix.bind fun _ =>
        takeByte_readsPrefix.bind fun _ => (takeCode_readsPrefix _).bind fun _ => .pure _
  case h_9 =>
    exact
      (takeCode_readsPrefix _).bind fun _ => takeWord_readsPrefix.bind fun _ => takeByte_readsPrefix.bind fun _ =>
        takeByte_readsPrefix.bind fun _ => (takeCode_readsPrefix _).bind fun _ => (takeCode_readsPrefix _).bind fun _ =>
        (takeCode_readsPrefix _).bind fun _ => .pure _
  case h_10 | h_26 | h_27 => exact parseHalfOp_readsPrefix _
  case h_11 | h_13 | h_16 => exact parseTwoBytesOp_readsPrefix _
  case h_12 => exact parseThreeBytesOp_readsPrefix _
  case h_14 | h_18 => exact parseByteOp_readsPrefix _
  case h_15 =>
    exact
      takeHalf_readsPrefix.bind fun _ => takeHalf_readsPrefix.bind fun _ => takeHalf_readsPrefix.bind fun _ =>
        takeHalf_readsPrefix.bind fun _ => takeHalf_readsPrefix.bind fun _ => takeHalf_readsPrefix.bind fun _ => .pure _
  case h_17 => exact takeWord_readsPrefix.bind fun _ => takeContributor_readsPrefix.bind fun _ => .pure _
  case h_19 | h_20 | h_21 => exact .pure _
  case h_22 =>
    exact
      takeByte_readsPrefix.bind fun _ => takeByte_readsPrefix.bind fun _ => takeByte_readsPrefix.bind fun _ =>
        takeByte_readsPrefix.bind fun _ => takeByte_readsPrefix.bind fun _ => takeByte_readsPrefix.bind fun _ => .pure _
  case h_23 =>
    exact
      takeByte_readsPrefix.bind fun _ => takeByte_readsPrefix.bind fun _ => takeByte_readsPrefix.bind fun _ =>
        (takeBytes_readsPrefix _).bind fun _ => .pure _
  case h_24 | h_25 => exact parseM0BgOp_readsPrefix _
  case h_28 | h_29 => exact takeHalf_readsPrefix.bind fun _ => parseDecOp_readsPrefix _
  case h_30 | h_34 => exact takeByte_readsPrefix.bind fun _ => parseFlipOp_readsPrefix _
  case h_31 | h_32 => exact takeHalf_readsPrefix.bind fun _ => parseFlipOp_readsPrefix _
  case h_33 => exact takeWord_readsPrefix.bind fun _ => parseFlipOp_readsPrefix _
  case h_35 => exact takeHalf_readsPrefix.bind fun _ => parseAffineOp_readsPrefix _
  case h_36 => exact takeHalf_readsPrefix.bind fun _ => parseSpriteOp_readsPrefix _
  case h_37 => exact takeHalf_readsPrefix.bind fun _ => omodeRow_readsPrefix _
  case h_38 => exact takeByte_readsPrefix.bind fun _ => objSizeRow_readsPrefix _
  case h_39 => exact takeHalf_readsPrefix.bind fun _ => parseEffectOp_readsPrefix _
  case h_40 => exact takeWord_readsPrefix.bind fun _ => .pure _
  case h_41 =>
    refine takeHalf_readsPrefix.bind fun w => ?_
    split
    · exact .pure _
    · exact .throw _
  case h_42 =>
    refine takeByte_readsPrefix.bind fun w => ?_
    split
    · exact .throw _
    · exact .pure _
  case h_43 | h_44 => exact takeByte_readsPrefix.bind fun _ => parseByteOp_readsPrefix _
  case h_45 => exact .throw _

/-- Settles O7: looking only at the bytes taken is kept by the ways the formats combine their parts. -/
theorem decodeReadsOnlyItsBytes : Obligations.DecodeReadsOnlyItsBytes := by
  intro bs rest i h
  obtain ⟨read, wellFormed⟩ := (decode_eq_ok_iff bs rest i).1 h
  obtain ⟨used, split, again⟩ := takeByte_readsPrefix.bind (fun tag => parseFormat_readsPrefix tag.toNat) bs rest i read
  refine ⟨wellFormed, used, ?nonempty, split, fun rest' => (decode_eq_ok_iff _ _ _).2 ⟨again rest', wellFormed⟩⟩
  case nonempty =>
    rintro rfl
    exact nomatch again []

/-! ### The selector rule -/

/-- What a format reads, the decoder gives when it is well formed. -/
theorem decode_of_parseFormat (tag : Byte) {bs rest : List Byte} {i : Instr}
    (h : parseFormat tag.toNat bs = .ok (i, rest)) (hw : i.wellFormed = true) : decode (tag :: bs) = .ok (i, rest) :=
  (decode_eq_ok_iff _ _ _).2 ⟨h, hw⟩

theorem wellFormed_dec (b : Bool) (v : View) (ta : Word) {px py : Byte} (hx : px.toNat < 8) (hy : py.toNat < 8) :
    (if b then Instr.dec8 v ta px py else .dec4 v ta px py).wellFormed = true := by
  cases b <;> simp [Instr.wellFormed, tileCoordOk, hx, hy]

/-- The effect field of BLDCNT as the row it names, which is well formed with its contributors. -/
theorem effectRow_apply (w : Half) (top : Contributor) (bot : Option Contributor) : effectRow w top bot =
    match selBits w 6 2 with
    | 0 => .effectNone w top bot
    | 1 => .effectAlpha w top bot
    | 2 => .effectBrighten w top bot
    | _ => .effectDarken w top bot := by
  rw [effectRow_eq]
  split <;> rfl

theorem wellFormed_effectRow (w : Half) {top : Contributor} {bot : Option Contributor} (ht : top.wellFormed = true)
    (hb : bot.all Contributor.wellFormed = true) : (effectRow w top bot).wellFormed = true := by
  have range : selBits w 6 2 < 4 := BitVec.isLt _
  rw [effectRow_apply]
  split <;> simp_all [Instr.wellFormed, effectOk]
  omega

/-- attr0 bits 9:8 as the row they name, which is well formed on a line of the screen. -/
theorem spriteRow_apply (a0 a1 a2 : Half) (y : Byte) : spriteRow a0 a1 a2 y =
    match Machine.bit a0 8, Machine.bit a0 9 with
    | false, false => .spriteNormal a0 a1 a2 y
    | false, true => .spriteHidden a0 a1 a2 y
    | true, false => .spriteAffine a0 a1 a2 y
    | true, true => .spriteAffineDbl a0 a1 a2 y := by
  unfold spriteRow Machine.bit
  cases a0.getLsbD 8 <;> cases a0.getLsbD 9 <;> rfl

theorem wellFormed_spriteRow (a0 a1 a2 : Half) {y : Byte} (hy : y.toNat < 160) :
    (spriteRow a0 a1 a2 y).wellFormed = true := by
  have sel := selBits_two a0 8
  unfold spriteRow
  cases h8 : a0.getLsbD 8 <;> cases h9 : a0.getLsbD 9 <;>
    simp_all [Instr.wellFormed, spriteOk, gbaLineOk]

/-- attr0 bits 11:10 as the row they name; the rows of modes 2 and 3 have no priority and no colour. -/
theorem parseFormat_omode (a0 : Half) (sx prio : Byte) (c : Half) (r : List Byte) :
    parseFormat 0x8A (putHalf a0 ++ sx :: ((if Machine.bit a0 11 then [] else prio :: putHalf c) ++ r)) =
      .ok (match selBits a0 10 2 with
        | 0 => .omodeNormal sx prio c
        | 1 => .omodeSemi sx prio c
        | 2 => .omodeObjwin sx
        | _ => .omodeHidden sx, r) := by
  refine (Parser.bind_ok (takeHalf_put a0 _) _).trans ?_
  rw [selBits_two]
  unfold omodeRow Machine.bit
  cases a0.getLsbD 11 <;> cases a0.getLsbD 10
  case false.false | false.true => exact parseCandidateOp_put _ sx prio c r
  case true.false | true.true => exact parseByteOp_cons _ sx r

theorem wellFormed_omode (k : Nat) {sx prio : Byte} (c : Half) (hx : sx.toNat < 240) (hp : prio.toNat < 4) :
    (match k with
      | 0 => Instr.omodeNormal sx prio c
      | 1 => .omodeSemi sx prio c
      | 2 => .omodeObjwin sx
      | _ => .omodeHidden sx).wellFormed = true := by
  split <;> simp [Instr.wellFormed, candidateOk, gbaColOk, hx, hp]

/-- The flip bits as the row they name, which is well formed inside the extents. -/
theorem flipRow_apply (hf vf : Bool) (px py wpx hpx : Half) : flipRow hf vf px py wpx hpx =
    match hf, vf with
    | false, false => .flipNone px py wpx hpx
    | true, false => .flipH px py wpx hpx
    | false, true => .flipV px py wpx hpx
    | true, true => .flipHV px py wpx hpx := by
  cases hf <;> cases vf <;> rfl

theorem wellFormed_flipRow (hf vf : Bool) {px py wpx hpx : Half} (hx : px.toNat < wpx.toNat) (hy : py.toNat < hpx.toNat) :
    (flipRow hf vf px py wpx hpx).wellFormed = true := by
  cases hf <;> cases vf <;> simp [flipRow, Instr.wellFormed, flipOk, hx, hy]

theorem wellFormed_dmgTile (w t : Byte) :
    (if w.getLsbD 4 then Instr.dmgTileUnsigned w t else .dmgTileSigned w t).wellFormed = true := by
  cases h : w.getLsbD 4 <;> simp_all [Instr.wellFormed, selBits_one]

theorem wellFormed_dmgObj (w : Byte) {i : Byte} (hi : i.toNat < 40) :
    (if w.getLsbD 2 then Instr.dmgObj16 w i else .dmgObj8 w i).wellFormed = true := by
  cases h : w.getLsbD 2 <;> simp_all [Instr.wellFormed, selBits_one]

/-- Settles O8: one law per format says which row the selector's bits choose; the row's operands are in range. -/
theorem selectorsChooseTheirRow : Obligations.SelectorsChooseTheirRow := by
  refine ⟨?bgBpp, ?objBpp, ?effect, ?omode, ?sprite, ?flip, ?dmgTile, ?dmgObj⟩
  case bgBpp =>
    intro w v ta px py rest hx hy
    exact decode_of_parseFormat 0x80 (parseFormat_bgBpp w v ta px py rest) (wellFormed_dec _ v ta hx hy)
  case objBpp =>
    intro w v ta px py rest hx hy
    exact decode_of_parseFormat 0x81 (parseFormat_objBpp w v ta px py rest) (wellFormed_dec _ v ta hx hy)
  case effect =>
    intro w top bot rest ht hb
    exact (decode_of_parseFormat 0x8C (parseFormat_effect w top bot rest) (wellFormed_effectRow w ht hb)).trans
      (congrArg (fun i => Except.ok (i, rest)) (effectRow_apply w top bot))
  case omode =>
    intro a0 sx prio c rest hx hp
    exact decode_of_parseFormat 0x8A (parseFormat_omode a0 sx prio c rest) (wellFormed_omode _ c hx hp)
  case sprite =>
    intro a0 a1 a2 y rest hy
    exact (decode_of_parseFormat 0x89 (parseFormat_sprite a0 a1 a2 y rest) (wellFormed_spriteRow a0 a1 a2 hy)).trans
      (congrArg (fun i => Except.ok (i, rest)) (spriteRow_apply a0 a1 a2 y))
  case flip =>
    intro w hf vf px py wpx hpx rest hx hy hw
    refine Eq.trans ?_ (congrArg (fun i => Except.ok (i, rest)) (flipRow_apply hf vf px py wpx hpx))
    have operands := parseFlipOp_put (flipRow hf vf) px py wpx hpx rest
    have wf := wellFormed_flipRow hf vf hx hy
    simp only [List.append_assoc]
    obtain ⟨e, rfl, rfl, rfl⟩ | ⟨a1, rfl, rfl, rfl⟩ | ⟨e, rfl, rfl, rfl⟩ | ⟨f, rfl, rfl, rfl⟩ := hw
    · exact decode_of_parseFormat 0x83 ((Parser.bind_ok (takeHalf_put e _) _).trans operands) wf
    · exact decode_of_parseFormat 0x84 ((Parser.bind_ok (takeHalf_put a1 _) _).trans operands) wf
    · exact decode_of_parseFormat 0x85 ((Parser.bind_ok (takeWord_put e _) _).trans operands) wf
    · exact decode_of_parseFormat 0x86 operands wf
  case dmgTile =>
    intro w t rest
    exact decode_of_parseFormat 0x90 (parseFormat_dmgTile w t rest) (wellFormed_dmgTile w t)
  case dmgObj =>
    intro w i rest hi
    exact decode_of_parseFormat 0x91 (parseFormat_dmgObj w i rest) (wellFormed_dmgObj w hi)

end Sys2Proof
end

section
/-! What one operation can do, said once (`Effect`): give a value back, replace one line buffer, write the framebuffer, or be the
host's write. The step invariants of the canonical form and of opaque colours are read off this list. -/

namespace Sys2Proof.Machine

open Sys2Proof

/-! ### Opaque pixels -/

/-- An emitted pixel (30_encoding.md R307). -/
abbrev isOpaque (w : Word) : Prop := w.extractLsb' 24 8 = 0xFF

theorem rgb555_isOpaque (c : Half) : isOpaque (rgb555 c) := rgba_opaque _ _ _

theorem opaquePixel_isOpaque (w : Word) : isOpaque (opaquePixel w) := opaque_append _

theorem dmgShadeWord_isOpaque (k : BitVec 2) : isOpaque (dmgShadeWord k) := by
  unfold dmgShadeWord
  split
  · exact opaque_append _
  · rfl

theorem dmgColour_isOpaque (p : Byte) (idx : Nat) : isOpaque (dmgColour p idx) := dmgShadeWord_isOpaque _

theorem dmgPixel_isOpaque (s : State) (x y : Nat) (sel : List Nat) : isOpaque (dmgPixel s x y sel) := by
  unfold dmgPixel
  dsimp only
  split
  · split <;> exact dmgColour_isOpaque _ _
  · exact dmgColour_isOpaque _ _

theorem composeList_isOpaque (bl : Blend) (en : BitVec 6) (cs : List Contributor) : isOpaque (composeList bl en cs) := by
  cases cs with
  | nil => exact (by decide : isOpaque 0xFF000000)
  | cons top rest => exact opaquePixel_isOpaque _

/-! ### Colours of the line buffers -/

theorem textBgColumn_colour (s : State) (cnt : BgCnt) (hofs vofs : Nat) (x y : Int) :
    opaqueOrClear (textBgColumn s cnt hofs vofs x y).colour := by
  unfold textBgColumn
  dsimp only
  split
  · exact .inl rfl
  · exact .inr (rgb555_isOpaque _)

theorem affineBgColumn_colour (s : State) (cnt : BgCnt) (wrap : Bool) (n : Nat) (y : Int) (x : Nat) :
    opaqueOrClear (affineBgColumn s cnt wrap n y x).colour := by
  unfold affineBgColumn
  dsimp only
  split
  · unfold affineTexel
    dsimp only
    split
    · exact .inl rfl
    · exact .inr (rgb555_isOpaque _)
  · exact .inl rfl

/-- A colour of the mode-0 palette is opaque (49_mode0.md R909). -/
theorem m0Colour_isOpaque {M : M0Record} {bpp8 : Bool} {pal : Nat} {idx : Byte} {w : Word}
    (h : m0Colour M bpp8 pal idx = some w) : isOpaque w := by
  unfold m0Colour at h
  dsimp only at h
  split at h
  · cases h; exact rgba_opaque _ _ _
  · cases h

theorem m0Column_colour (M : M0Record) (b : Nat) (uv : Int × Int) : opaqueOrClear (m0Column M b uv).colour := by
  unfold m0Column
  dsimp only
  split
  · unfold m0Texel
    dsimp only
    split
    · split
      · exact .inl rfl
      · split
        · exact .inl rfl
        · next colour => exact .inr (m0Colour_isOpaque colour)
    · exact .inl rfl
  · exact .inl rfl

theorem SprCol.offer_colour {c : SprCol} {prio : Byte} {w : Word} {semi : Bool} (hc : opaqueOrClear c.colour)
    (hw : isOpaque w) : opaqueOrClear (c.offer prio w semi).colour := by
  unfold SprCol.offer
  split
  · exact .inr hw
  · exact hc

theorem spriteColumn_colour (s : State) (k : SpriteKind) (a : ObjAttr) (y sx : Int) {c : SprCol}
    (hc : opaqueOrClear c.colour) : opaqueOrClear (spriteColumn s k a y sx c).colour := by
  unfold spriteColumn
  split
  · exact hc
  · dsimp only
    split
    · split
      · exact hc
      · split
        · exact hc
        · cases a.omode
          case normal | semi => exact SprCol.offer_colour hc (rgb555_isOpaque _)
          case objwin | hidden => exact hc
    · exact hc

theorem m0SpriteColumn_colour (M : M0Record) (r : M0Sprite) (y sx : Int) {c : SprCol} (hc : opaqueOrClear c.colour) :
    opaqueOrClear (m0SpriteColumn M r y sx c).colour := by
  unfold m0SpriteColumn
  extract_lets w h k
  split
  · split
    · exact hc
    · extract_lets tn idx
      split
      · exact hc
      · split
        · exact hc
        · split
          · exact hc
          · next colour => exact SprCol.offer_colour hc (m0Colour_isOpaque colour)
  · exact hc

theorem spritePixel_colour (s : State) (y sx : Nat) : opaqueOrClear (spritePixel s y sx).colour := by
  unfold spritePixel
  split
  · exact foldl_down_induction (fun _ (c : SprCol) => opaqueOrClear c.colour) _ _ _ (.inl rfl) fun i c _ hc =>
      spriteColumn_colour s _ _ _ _ hc
  · exact .inl rfl

theorem m0SpritePixel_colour (M : M0Record) (y sx : Nat) : opaqueOrClear (m0SpritePixel M y sx).colour := by
  unfold m0SpritePixel
  split
  · exact foldl_down_induction (fun _ (c : SprCol) => opaqueOrClear c.colour) _ _ _ (.inl rfl) fun i c _ hc =>
      m0SpriteColumn_colour M _ _ _ hc
  · exact .inl rfl

/-! ### Framebuffer writes of the core -/

/-- A framebuffer write of the core: it stays canonical and inside the array, and every word it changes is an emitted pixel. -/
structure FbUpdate (fb fb' : Memory Word) : Prop where
  ok : Memory.ok 0 Config.fbWords fb → Memory.ok 0 Config.fbWords fb'
  word : ∀ i, Memory.read 0 fb' i = Memory.read 0 fb i ∨ isOpaque (Memory.read 0 fb' i)

/-- An element of a list of emitted pixels, or the word read past its end. -/
theorem isOpaque_getD {row : List Word} (h : ∀ w ∈ row, isOpaque w) {i : Nat} (hi : i < row.length) :
    isOpaque ((row[i]?).getD 0) := by
  rw [List.getElem?_eq_getElem hi]
  exact h _ (List.getElem_mem hi)

theorem fbUpdate_writeRow (fb : Memory Word) {w y : Nat} {row : List Word} (hl : row.length = w)
    (ho : ∀ p ∈ row, isOpaque p) (hs : y * w + w ≤ Config.fbWords) : FbUpdate fb (writeRow fb w y row) where
  ok h := writeRow_ok fb _ w y row h (by omega)
  word i := by
    rw [writeRow_read fb w y row hl]
    split
    · exact .inr (isOpaque_getD ho (by omega))
    · exact .inl rfl

theorem fbUpdate_writeFrame (fb : Memory Word) {w h : Nat} {row : Nat → List Word} (hl : ∀ y, (row y).length = w)
    (ho : ∀ y, ∀ p ∈ row y, isOpaque p) (hs : h * w ≤ Config.fbWords) : FbUpdate fb (writeFrame fb w h row) where
  ok hf := writeFrame_ok fb _ w h row (fun y _ => hl y) hf hs
  word i := by
    rw [writeFrame_read fb w h row fun y _ => hl y]
    split
    · next hi =>
      have hw : 0 < w := Nat.pos_of_ne_zero fun e => by simp [e] at hi
      exact .inr (isOpaque_getD (ho _) ((hl _).symm ▸ Nat.mod_lt i hw))
    · exact .inl rfl

theorem fbUpdate_forcedBlankFill (s : State) : FbUpdate s.fb s.forcedBlankFill.fb where
  ok h := ⟨Memory.wf_writeBlock _ _ _ _ h.1, Memory.below_writeBlock _ _ _ _ _ h.2 (by simp)⟩
  word i := by
    have := forcedBlankFill_fbWord s i
    unfold State.fbWord at this
    rw [this]
    split
    · exact .inr rfl
    · exact .inl rfl

/-! The rows of a frame are lines of emitted pixels. -/

theorem composeRow_isOpaque (s : State) (lb : LineBuffers) (y : Nat) : ∀ p ∈ composeRow s lb y, isOpaque p := by
  intro p hp
  obtain ⟨x, -, rfl⟩ := List.mem_map.1 hp
  exact composeList_isOpaque _ _ _

theorem m0ComposeRow_isOpaque (M : M0Record) (w : Nat) (lb : LineBuffers) (y : Nat) :
    ∀ p ∈ m0ComposeRow M w lb y, isOpaque p := by
  intro p hp
  obtain ⟨x, -, rfl⟩ := List.mem_map.1 hp
  exact composeList_isOpaque _ _ _

theorem dmgRow_isOpaque (s : State) (y : Nat) : ∀ p ∈ dmgRow s y, isOpaque p := by
  intro p hp
  obtain ⟨x, -, rfl⟩ := List.mem_map.1 hp
  exact dmgPixel_isOpaque _ _ _ _

theorem composeRow_length (s : State) (lb : LineBuffers) (y : Nat) : (composeRow s lb y).length = Config.gbaW := by
  simp [composeRow]

theorem m0ComposeRow_length (M : M0Record) (w : Nat) (lb : LineBuffers) (y : Nat) : (m0ComposeRow M w lb y).length = w := by
  simp [m0ComposeRow]

theorem dmgRow_length (s : State) (y : Nat) : (dmgRow s y).length = Config.dmgW := by simp [dmgRow]

theorem State.m0Width_le (s : State) : s.m0Width ≤ Config.fbWidthMax := by
  unfold State.m0Width
  split
  · next h => exact h.2
  · exact Nat.zero_le _

/-! ### The effects -/

/-- What an operation can do to the state. -/
inductive Effect : Instr → State → State → Prop
  | stay (i : Instr) (s : State) : Effect i s s
  | give (i : Instr) (s : State) (r : Result) (emitted : ∀ w, r = .colour w → isOpaque w) : Effect i s (s.give r)
  | bgLine (i : Instr) (s : State) (b : Nat) (m : Memory BgCol) (ok : Memory.ok BgCol.transparent Config.fbWidthMax m)
      (colour : ∀ x, opaqueOrClear (Memory.read BgCol.transparent m x).colour) : Effect i s (s.setBgLine b m)
  | sprLine (i : Instr) (s : State) (m : Memory SprCol)
      (ok : Memory.ok SprCol.empty Config.fbWidthMax s.line.spr → Memory.ok SprCol.empty Config.fbWidthMax m)
      (colour : (∀ x, opaqueOrClear (s.line.sprCol x).colour) → ∀ x, opaqueOrClear (Memory.read SprCol.empty m x).colour) :
      Effect i s (s.setSprLine m)
  | draw (i : Instr) (s : State) (fb : Memory Word) (update : FbUpdate s.fb fb) : Effect i s { s with fb := fb }
  | frame (i : Instr) (s : State) (fb : Memory Word) (update : FbUpdate s.fb fb) :
      Effect i s { s with fb := fb, line := LineBuffers.cleared }
  | host (op : HostOp) (s : State) : Effect (.hostWrite op) s (s.hostWrite op)

/-- A line of background columns given one by one. -/
theorem Effect.bgBuffer (i : Instr) (s : State) (b w : Nat) (f : Nat → BgCol) (hw : w ≤ Config.fbWidthMax)
    (hf : ∀ x, opaqueOrClear (f x).colour) : Effect i s (s.setBgLine b (bgBuffer w f)) :=
  .bgLine i s b _ (bgBuffer_ok w _ f hw) fun x => by
    rw [bgBuffer_read]
    split
    · exact hf x
    · exact .inl rfl

/-- A line of sprite columns given one by one. -/
theorem Effect.sprBuffer (i : Instr) (s : State) (w : Nat) (f : Nat → SprCol) (hw : w ≤ Config.fbWidthMax)
    (hf : (∀ x, opaqueOrClear (s.line.sprCol x).colour) → ∀ x, opaqueOrClear (f x).colour) :
    Effect i s (s.setSprLine (sprBuffer w f)) :=
  .sprLine i s _ (fun _ => sprBuffer_ok w _ f hw) fun hc x => by
    rw [sprBuffer_read]
    split
    · exact hf hc x
    · exact .inl rfl

/-- One column of the sprite line. -/
theorem Effect.updateSprCol (i : Instr) (s : State) (sx : Nat) (f : SprCol → SprCol) (hx : sx < Config.gbaW)
    (hf : ∀ c, opaqueOrClear c.colour → opaqueOrClear (f c).colour) : Effect i s (s.updateSprCol sx f) :=
  .sprLine i s _
    (fun h => ⟨Memory.wf_write _ _ _ _ h.1, Memory.below_write _ _ _ _ _ h.2 (Nat.lt_trans hx (by decide))⟩)
    fun hc x => by
      rw [Memory.read_write]
      split
      · exact hf _ (hc sx)
      · exact hc x

theorem Effect.drawSprite (i : Instr) (s : State) (k : SpriteKind) (a : ObjAttr) (y : Nat) :
    Effect i s (s.setSprLine (drawSprite s k a y s.line)) :=
  .sprBuffer i s _ _ (by decide) fun hc x => spriteColumn_colour s k a y x (hc x)

theorem Effect.forcedBlankFill (i : Instr) (s : State) : Effect i s s.forcedBlankFill :=
  .draw i s _ (fbUpdate_forcedBlankFill s)

/-- A value given back that is no colour. -/
theorem Effect.giveOther (i : Instr) (s : State) (r : Result) (h : ∀ w, r ≠ .colour w) : Effect i s (s.give r) :=
  .give i s r fun w e => absurd e (h w)

/-- A colour given back. -/
theorem Effect.giveColour (i : Instr) (s : State) (w : Word) (h : isOpaque w) : Effect i s (s.give (.colour w)) :=
  .give i s _ fun _ e => by cases e; exact h

theorem Effect.renderMode0 (i : Instr) (s : State) : Effect i s s.renderMode0 := by
  unfold State.renderMode0
  split
  · exact .forcedBlankFill i s
  · split
    · next legal =>
      refine .frame i s _ (fbUpdate_writeFrame s.fb (fun y => m0ComposeRow_length _ _ _ y)
        (fun y => m0ComposeRow_isOpaque _ _ _ y) ?_)
      calc Config.m0H * s.regs.frameWidth.toNat
        _ ≤ Config.m0H * Config.fbWidthMax := Nat.mul_le_mul_left _ legal.2
        _ = Config.fbWords := rfl
    · exact .stay i s

theorem Effect.renderGba (i : Instr) (s : State) (mixed : Bool) : Effect i s (s.renderGba mixed) := by
  unfold State.renderGba
  split
  · exact .forcedBlankFill i s
  · exact .frame i s _ (fbUpdate_writeFrame s.fb (fun y => composeRow_length _ _ y) (fun y => composeRow_isOpaque _ _ y)
      (by decide))

theorem Effect.renderDmg (i : Instr) (s : State) : Effect i s s.renderDmg := by
  unfold State.renderDmg
  split
  · exact .frame i s _ (fbUpdate_writeFrame s.fb (dmgRow_length s) (dmgRow_isOpaque s) (by decide))
  · exact .forcedBlankFill i s

theorem Effect.render (i : Instr) (s : State) : Effect i s s.render := by
  unfold State.render
  split
  case h_1 => exact .renderMode0 i s
  case h_2 => exact .renderGba i s false
  case h_3 => exact .renderGba i s true
  case h_4 => exact .renderDmg i s
  case h_5 => exact .stay i s

/-- Every well-formed instruction has one of the effects. -/
theorem exec_effect (i : Instr) (s t : State) (hw : i.wellFormed = true) (h : exec i s = .next t) : Effect i s t := by
  cases i
  case hostWrite op => cases h; exact .host op s
  case rgb555ToRgba | rgb888ToRgba => cases h; exact .giveColour _ s _ (rgba_opaque _ _ _)
  case dmgShade => cases h; exact .giveColour _ s _ (dmgColour_isOpaque _ _)
  case dmgPixel => cases h; exact .giveColour _ s _ (dmgPixel_isOpaque _ _ _ _)
  case effectNone | effectAlpha | effectBrighten | effectDarken | semiForcedAlpha =>
    cases h; exact .giveColour _ s _ (opaquePixel_isOpaque _)
  case textBgLine => cases h; exact .bgBuffer _ s _ _ _ (by decide) fun x => textBgColumn_colour _ _ _ _ _ _
  case affineBgLineWrap | affineBgLineClip =>
    cases h; exact .bgBuffer _ s _ _ _ (by decide) fun x => affineBgColumn_colour _ _ _ _ _ _
  case m0BgText | m0BgAffine => cases h; exact .bgBuffer _ s _ _ _ s.m0Width_le fun x => m0Column_colour _ _ _
  case spriteLine => cases h; exact .sprBuffer _ s _ _ (by decide) fun _ x => spritePixel_colour _ _ _
  case m0SpriteLine => cases h; exact .sprBuffer _ s _ _ s.m0Width_le fun _ x => m0SpritePixel_colour _ _ _
  case spriteNormal | spriteAffine | spriteAffineDbl => cases h; exact .drawSprite _ s _ _ _
  case omodeNormal | omodeSemi =>
    cases h
    simp only [Instr.wellFormed, candidateOk, gbaColOk, Bool.and_eq_true, decide_eq_true_eq] at hw
    exact .updateSprCol _ s _ _ hw.1 fun c hc => SprCol.offer_colour hc (rgb555_isOpaque _)
  case omodeObjwin => cases h; exact .updateSprCol _ s _ _ (of_decide_eq_true hw) fun c hc => hc
  case spriteHidden | omodeHidden | renderFrameNop => cases h; exact .stay _ s
  case composeLine y =>
    cases h
    have line : y.toNat < 160 := of_decide_eq_true hw
    exact .draw _ s _ (fbUpdate_writeRow s.fb (composeRow_length _ _ _) (composeRow_isOpaque _ _ _)
      (by simp only [Config.gbaW, Config.fbWords]; omega))
  case m0ComposeLine y =>
    cases h
    have line : y.toNat < 360 := of_decide_eq_true hw
    refine .draw _ s _ (fbUpdate_writeRow s.fb (m0ComposeRow_length _ _ _ _) (m0ComposeRow_isOpaque _ _ _ _) ?_)
    calc y.toNat * s.m0Width + s.m0Width
      _ = (y.toNat + 1) * s.m0Width := (Nat.succ_mul _ _).symm
      _ ≤ 360 * Config.fbWidthMax := Nat.mul_le_mul line s.m0Width_le
      _ = Config.fbWords := rfl
  case renderFrame => cases h; exact .render _ s
  case renderFrameMode0 => cases h; exact .renderMode0 _ s
  case renderFrameGbaText | renderFrameGbaMixed => cases h; exact .renderGba _ s _
  case renderFrameDmg => cases h; exact .renderDmg _ s
  case forcedBlankGba | forcedBlankFill | forcedBlankDmg => cases h; exact .forcedBlankFill _ s
  case forcedBlankMode0 =>
    cases h
    split
    · exact .forcedBlankFill _ s
    · exact .stay _ s
  all_goals cases h; exact .giveOther _ s _ fun w e => nomatch e

/-! ### Steps -/

/-- A step waits, or runs the well-formed instruction it has decoded. -/
theorem step_cases {s t : State} (h : step s = .next t) :
    t = s ∨ ∃ i rest, decode s.port = .ok (i, rest) ∧ i.wellFormed = true ∧ exec i (s.advance rest) = .next t := by
  unfold step State.fetch at h
  by_cases idle : s.port = []
  · rw [if_pos idle] at h
    cases h; exact .inl rfl
  · rw [if_neg idle] at h
    cases hd : decode s.port with
    | ok r =>
      obtain ⟨i, rest⟩ := r
      rw [hd] at h
      exact .inr ⟨i, rest, rfl, ((decode_eq_ok_iff _ _ _).1 hd).2, h⟩
    | error e =>
      rw [hd] at h
      cases h

/-! ### The canonical form -/

theorem State.hostWrite_canonical (s : State) (op : HostOp) (h : s.canonical) : (s.hostWrite op).canonical := by
  cases op with
  | store r off n v => exact State.memWrite_canonical s r off.toInt n v h
  | fill r off len b => exact State.memFill_canonical s r off.toInt len.toNat b h
  | mode v => exact h
  | frameWidth v => exact h

/-- Each background holds the new line or the one it held. -/
theorem LineBuffers.setBg_bg_cases (lb : LineBuffers) (b c : Nat) (m : Memory BgCol) :
    (lb.setBg b m).bg c = m ∨ (lb.setBg b m).bg c = lb.bg c := by
  unfold LineBuffers.setBg LineBuffers.bg
  split <;> split <;> simp

theorem Memory.ok_nil {α : Type} [DecidableEq α] (d : α) (size : Nat) : Memory.ok d size [] :=
  ⟨⟨List.Pairwise.nil, fun _ h => nomatch h⟩, fun _ h => nomatch h⟩

theorem Effect.keeps_canonical {i : Instr} {s t : State} (e : Effect i s t) (h : s.canonical) : t.canonical := by
  cases e with
  | stay _ _ => exact h
  | give _ _ r => exact h
  | bgLine _ _ b m ok =>
    obtain ⟨vram, io, bgPltt, objPltt, oam, fb, bg, spr⟩ := h
    refine ⟨vram, io, bgPltt, objPltt, oam, fb, fun c hc => ?_, by simpa using spr⟩
    rw [State.setBgLine_line]
    obtain e | e := s.line.setBg_bg_cases b c m
    · rw [e]; exact ok
    · rw [e]; exact bg c hc
  | sprLine _ _ m ok =>
    obtain ⟨vram, io, bgPltt, objPltt, oam, fb, bg, spr⟩ := h
    exact ⟨vram, io, bgPltt, objPltt, oam, fb, by simpa using bg, ok spr⟩
  | draw _ _ fb' update =>
    obtain ⟨vram, io, bgPltt, objPltt, oam, fb, bg, spr⟩ := h
    exact ⟨vram, io, bgPltt, objPltt, oam, update.ok fb, bg, spr⟩
  | frame _ _ fb' update =>
    obtain ⟨vram, io, bgPltt, objPltt, oam, fb, -, -⟩ := h
    exact ⟨vram, io, bgPltt, objPltt, oam, update.ok fb,
      fun b _ => by rw [LineBuffers.cleared_bg]; exact Memory.ok_nil _ _, Memory.ok_nil _ _⟩
  | host op _ => exact s.hostWrite_canonical op h

/-- Settles O57: each effect keeps the canonical form, and taking a command from the port touches no region. -/
theorem stepKeepsCanonical : Obligations.StepKeepsCanonical := by
  intro s t h step
  obtain rfl | ⟨i, rest, -, wf, run⟩ := step_cases step
  · exact h
  · exact (exec_effect i _ t wf run).keeps_canonical h

/-! ### Opaque colours -/

theorem LineBuffers.setBg_bgCol_cases (lb : LineBuffers) (b c x : Nat) (m : Memory BgCol) :
    (lb.setBg b m).bgCol c x = Memory.read BgCol.transparent m x ∨ (lb.setBg b m).bgCol c x = lb.bgCol c x := by
  unfold LineBuffers.bgCol
  obtain e | e := lb.setBg_bg_cases b c m
  · exact .inl (by rw [e])
  · exact .inr (by rw [e])

/-- What a host write leaves: the line buffers, the result and the port; and the framebuffer unless it is for it. -/
theorem State.hostWrite_frame (s : State) (op : HostOp) :
    (s.hostWrite op).line = s.line ∧ (s.hostWrite op).result = s.result ∧ (s.hostWrite op).port = s.port ∧
    (HostOp.writesFb op = false → (s.hostWrite op).fb = s.fb) ∧ (HostOp.writesFb op = true → s.sameInputs (s.hostWrite op)) := by
  have region {r : Region} {t : State} (h : s.hostFrame r t) :
      t.line = s.line ∧ t.result = s.result ∧ t.port = s.port ∧ (decide (r = .fb) = false → t.fb = s.fb) ∧
        (decide (r = .fb) = true → s.sameInputs t) := by
    obtain ⟨-, line, result, port, fb, inputs⟩ := h
    exact ⟨line, result, port, fun e => fb (of_decide_eq_false e), fun e => inputs (of_decide_eq_true e)⟩
  cases op with
  | store r off n v => exact region (State.memWrite_frame s r off.toInt n v)
  | fill r off len b => exact region (State.memFill_frame s r off.toInt len.toNat b)
  | mode v | frameWidth v => exact ⟨rfl, rfl, rfl, fun _ => rfl, fun e => nomatch e⟩

/-- An effect keeps the colours of the line buffers and of the result clear or opaque. -/
theorem Effect.keeps_linesOpaque {i : Instr} {s t : State} (e : Effect i s t) (h : s.linesOpaque) : t.linesOpaque := by
  obtain ⟨bg, spr, result⟩ := h
  cases e with
  | stay _ _ => exact ⟨bg, spr, result⟩
  | give _ _ r emitted => exact ⟨bg, spr, emitted⟩
  | bgLine _ _ b m ok colour =>
    refine ⟨fun c x => ?_, fun x => ?_, result⟩
    · obtain e | e := s.line.setBg_bgCol_cases b c x m
      · exact e ▸ colour x
      · exact e ▸ bg c x
    · rw [State.setBgLine_line, LineBuffers.setBg_sprCol]
      exact spr x
  | sprLine _ _ m ok colour =>
    refine ⟨fun c x => ?_, colour spr, result⟩
    rw [State.setSprLine_line, LineBuffers.setSpr_bgCol]
    exact bg c x
  | draw _ _ fb update => exact ⟨bg, spr, result⟩
  | frame _ _ fb update =>
    refine ⟨fun c x => ?_, fun x => .inl rfl, result⟩
    rw [LineBuffers.cleared_bgCol]
    exact .inl rfl
  | host op _ =>
    obtain ⟨line, res, -⟩ := s.hostWrite_frame op
    exact ⟨by rw [line]; exact bg, by rw [line]; exact spr, by rw [res]; exact result⟩

/-- A framebuffer word an effect changes is an emitted pixel, unless the host wrote the framebuffer. -/
theorem Effect.fbWord_cases {i : Instr} {s t : State} (e : Effect i s t) (k : Nat) :
    t.fbWord k = s.fbWord k ∨ isOpaque (t.fbWord k) ∨ ∃ op, i = .hostWrite op ∧ HostOp.writesFb op = true := by
  cases e with
  | stay _ _ | give _ _ _ _ | bgLine _ _ _ _ _ _ | sprLine _ _ _ _ _ => exact .inl rfl
  | draw _ _ fb update | frame _ _ fb update =>
    obtain e | e := update.word k
    · exact .inl e
    · exact .inr (.inl e)
  | host op _ =>
    obtain ⟨-, -, -, fb, -⟩ := s.hostWrite_frame op
    cases w : HostOp.writesFb op with
    | true => exact .inr (.inr ⟨op, rfl, w⟩)
    | false => exact .inl (by unfold State.fbWord; rw [fb w])

theorem step_fbWord_cases {s t : State} (h : step s = .next t) (k : Nat) :
    t.fbWord k = s.fbWord k ∨ isOpaque (t.fbWord k) ∨ s.hostWritesFb := by
  obtain rfl | ⟨i, rest, dec, wf, run⟩ := step_cases h
  · exact .inl rfl
  · obtain e | e | ⟨op, rfl, w⟩ := (exec_effect i _ t wf run).fbWord_cases k
    · exact .inl e
    · exact .inr (.inl e)
    · exact .inr (.inr ⟨op, rest, dec, w⟩)

theorem step_keeps_linesOpaque {s t : State} (h : step s = .next t) (hs : s.linesOpaque) : t.linesOpaque := by
  obtain rfl | ⟨i, rest, -, wf, run⟩ := step_cases h
  · exact hs
  · exact (exec_effect i _ t wf run).keeps_linesOpaque hs

/-- Settles O58: the effects of 30_encoding.md R307, word by word of the framebuffer. -/
theorem stepKeepsColoursOpaque : Obligations.StepKeepsColoursOpaque := by
  intro s t h
  refine ⟨step_keeps_linesOpaque h, fun k changed => ?_, fun core ⟨fb, lines⟩ => ⟨fun k => ?_, step_keeps_linesOpaque h lines⟩⟩
  · obtain e | e | e := step_fbWord_cases h k
    · exact absurd e changed
    · exact .inl e
    · exact .inr e
  · obtain e | e | e := step_fbWord_cases h k
    · exact e ▸ fb k
    · exact .inr e
    · exact absurd e core

end Sys2Proof.Machine
end

section
/-! Reset, single steps, and who writes what: the statements that follow from the dispatch alone. -/

namespace Sys2Proof.Machine

open Sys2Proof

/-! ### Reset -/

theorem reset_regionByte (r : Region) (o : Nat) : State.reset.regionByte r o = 0 := by
  cases r
  case fb => exact BitVec.extractLsb'_zero
  all_goals rfl

/-- Settles O1: every region of the reset state is the empty array. -/
theorem resetAllZero : Obligations.ResetAllZero := ⟨reset_regionByte, fun _ => rfl, rfl, rfl⟩

/-- Settles O2: at reset the mode is 0, blank VRAM has no forced blank, and a `frame_width` of 0 is illegal. -/
theorem resetRenderIsNoOp : Obligations.ResetRenderIsNoOp := by
  have noFrame : State.reset.renderMode0 = State.reset := by
    unfold State.renderMode0
    rw [m0_forcedBlank_of_blank State.reset rfl]
    rfl
  exact congrArg Host.Outcome.next noFrame

/-- Settles O56: the empty arrays are canonical and read as their unlisted values. -/
theorem resetKeepsInvariants : Obligations.ResetKeepsInvariants := by
  refine ⟨⟨?_, ?_, ?_, ?_, ?_, ?_, fun b _ => ?_, ?_⟩, fun i => .inl rfl, fun b x => ?_, fun x => .inl rfl, fun w e => nomatch e⟩
  case refine_7 => exact (LineBuffers.cleared_bg b).symm ▸ Memory.ok_nil _ _
  case refine_9 => exact (LineBuffers.cleared_bgCol b x).symm ▸ .inl rfl
  all_goals exact Memory.ok_nil _ _

/-! ### Steps -/

theorem fetch_of_decode_ok {s : State} {i : Instr} {rest : List Byte} (h : decode s.port = .ok (i, rest)) :
    s.fetch = .command i rest := by
  have pending : s.port ≠ [] := fun e => by rw [e] at h; cases h
  unfold State.fetch
  rw [if_neg pending, h]

/-- Settles O3: the port's front bytes are not empty when they decode, so the step fetches and runs the command. -/
theorem stepRunsDecodedInstruction : Obligations.StepRunsDecodedInstruction := by
  intro s i rest h
  refine ⟨((decode_eq_ok_iff _ _ _).1 h).2, ?_⟩
  unfold step
  rw [fetch_of_decode_ok h]
  rfl

/-- Settles O4: the two ways in which no command is fetched. -/
theorem stepIdlesOrRefuses : Obligations.StepIdlesOrRefuses := by
  refine ⟨fun s idle => ?_, fun s e pending bad => ?_⟩
  · unfold step State.fetch
    rw [if_pos idle]
  · unfold step State.fetch
    rw [if_neg pending, bad]

/-- Settles O5: the seven words run through the decoder. -/
theorem decodeSampleWords : Obligations.DecodeSampleWords := ⟨rfl, rfl, rfl, rfl, rfl, rfl, rfl⟩

/-- Settles O9: every arm of the dispatch answers a next state. -/
theorem everyInstructionCompletes : Obligations.EveryInstructionCompletes := by
  intro i s
  cases i <;> exact ⟨_, rfl⟩

/-! ### Who writes what -/

/-- Rendering reads the inputs and the port and writes neither. -/
def State.keepsInputs (s t : State) : Prop := s.sameInputs t ∧ t.port = s.port

theorem State.keepsInputs_refl (s : State) : s.keepsInputs s := ⟨⟨rfl, rfl, rfl, rfl, rfl, rfl⟩, rfl⟩

theorem State.keepsInputs_forcedBlankFill (s : State) : s.keepsInputs s.forcedBlankFill :=
  ⟨⟨rfl, rfl, rfl, rfl, rfl, rfl⟩, rfl⟩

theorem State.keepsInputs_withFrame (s : State) (w h : Nat) (row : Nat → List Word) : s.keepsInputs (s.withFrame w h row) :=
  ⟨⟨rfl, rfl, rfl, rfl, rfl, rfl⟩, rfl⟩

theorem renderMode0_keepsInputs (s : State) : s.keepsInputs s.renderMode0 := by
  unfold State.renderMode0
  split
  · exact s.keepsInputs_forcedBlankFill
  · split
    · exact s.keepsInputs_withFrame _ _ _
    · exact s.keepsInputs_refl

theorem renderGba_keepsInputs (s : State) (mixed : Bool) : s.keepsInputs (s.renderGba mixed) := by
  unfold State.renderGba
  split
  · exact s.keepsInputs_forcedBlankFill
  · exact s.keepsInputs_withFrame _ _ _

theorem renderDmg_keepsInputs (s : State) : s.keepsInputs s.renderDmg := by
  unfold State.renderDmg
  split
  · exact s.keepsInputs_withFrame _ _ _
  · exact s.keepsInputs_forcedBlankFill

theorem render_keepsInputs (s : State) : s.keepsInputs s.render := by
  unfold State.render
  split
  case h_1 => exact renderMode0_keepsInputs s
  case h_2 => exact renderGba_keepsInputs s false
  case h_3 => exact renderGba_keepsInputs s true
  case h_4 => exact renderDmg_keepsInputs s
  case h_5 => exact s.keepsInputs_refl

/-- Settles O59: the host's writes by their frame, the frames and rows by theirs, every other arm by the fields it sets. -/
theorem onlyTheHostWritesInputs : Obligations.OnlyTheHostWritesInputs := by
  intro i s t h
  cases i
  case hostWrite op =>
    cases h
    obtain ⟨-, -, port, fb, inputs⟩ := s.hostWrite_frame op
    refine ⟨fun all => inputs (all op rfl), ?_, port⟩
    cases w : HostOp.writesFb op with
    | true => exact .inl w
    | false => exact .inr (fb w)
  case renderFrame => cases h; exact ⟨fun _ => (render_keepsInputs s).1, trivial, (render_keepsInputs s).2⟩
  case renderFrameMode0 => cases h; exact ⟨fun _ => (renderMode0_keepsInputs s).1, trivial, (renderMode0_keepsInputs s).2⟩
  case renderFrameGbaText | renderFrameGbaMixed =>
    cases h; exact ⟨fun _ => (renderGba_keepsInputs s _).1, trivial, (renderGba_keepsInputs s _).2⟩
  case renderFrameDmg => cases h; exact ⟨fun _ => (renderDmg_keepsInputs s).1, trivial, (renderDmg_keepsInputs s).2⟩
  case forcedBlankMode0 =>
    cases h
    split
    · exact ⟨fun _ => s.keepsInputs_forcedBlankFill.1, trivial, rfl⟩
    · exact ⟨fun _ => s.keepsInputs_refl.1, trivial, rfl⟩
  case composeLine | m0ComposeLine => cases h; exact ⟨fun _ => ⟨rfl, rfl, rfl, rfl, rfl, rfl⟩, trivial, rfl⟩
  case forcedBlankGba | forcedBlankFill | forcedBlankDmg =>
    cases h; exact ⟨fun _ => s.keepsInputs_forcedBlankFill.1, trivial, rfl⟩
  case spriteHidden | omodeHidden | renderFrameNop => cases h; exact ⟨fun _ => s.keepsInputs_refl.1, rfl, rfl⟩
  all_goals cases h; exact ⟨fun _ => ⟨rfl, rfl, rfl, rfl, rfl, rfl⟩, rfl, rfl⟩

end Sys2Proof.Machine
end

section
/-! Memory views and the host's port: the sizes and regions of the views, the typed mode-0 record as numbers, narrower reads inside wider
ones, and what the host's writes and reads do byte by byte. -/

namespace Sys2Proof.Machine

open Sys2Proof

/-! ### The typed mode-0 record -/

/-- Two readers that read every field alike give the same record. -/
theorem M0Reader.ext {r r' : M0Reader} (hu : ∀ f, r.unsigned f = r'.unsigned f) (hs : ∀ f, r.signed f = r'.signed f) :
    r = r' := by
  obtain ⟨u, sg⟩ := r
  obtain ⟨u', sg'⟩ := r'
  obtain rfl : u = u' := funext hu
  obtain rfl : sg = sg' := funext hs
  rfl

/-- Settles O10: sizes and regions by definition; the record by its reader, whose fields are little-endian numbers. -/
theorem viewsOfTheRegions : Obligations.ViewsOfTheRegions := by
  refine ⟨⟨rfl, rfl, rfl, rfl, rfl, rfl, rfl⟩, fun s o => ⟨rfl, rfl, rfl, rfl, rfl, rfl, rfl⟩, ⟨rfl, fun s o => rfl⟩,
    fun s => rfl, fun L vram => ?record⟩
  case record =>
    intro byte value num flag twos signed s16 s32
    have num_eq (f : Config.M0Field) : m0Field L vram f = num f := by
      rw [m0Field_eq, assemble_toNat]
      rfl
    have signed_eq (f : Config.M0Field) : (m0Reader L vram).signed f = signed f := by
      show sextN _ (m0Field L vram f) = _
      rw [num_eq, sextN_eq, toInt_ofInt_eq]
    have reader : m0Reader L vram = ⟨num, signed⟩ := M0Reader.ext num_eq signed_eq
    have s16_eq (f : Config.M0Field) : M0Reader.s16 ⟨num, signed⟩ f = s16 f := toInt_ofInt_eq 16 (signed f)
    have s32_eq (f : Config.M0Field) : M0Reader.s24p8 ⟨num, signed⟩ f = s32 f := toInt_ofInt_eq 32 (signed f)
    unfold m0Record
    rw [reader]
    unfold M0Reader.record M0Reader.background
    simp only [s16_eq, s32_eq]
    rfl

/-! ### Narrower reads -/

theorem half_low (b a : Byte) : (b ++ a : Half).extractLsb' 0 8 = a := by
  apply BitVec.eq_of_toNat_eq
  have := a.isLt
  rw [BitVec.extractLsb'_toNat, half_toNat]
  simp
  omega

theorem word_low (d c b a : Byte) : (d ++ c ++ b ++ a : Word).extractLsb' 0 16 = b ++ a := by
  apply BitVec.eq_of_toNat_eq
  have := a.isLt
  have := b.isLt
  rw [BitVec.extractLsb'_toNat, word_toNat, half_toNat]
  simp
  omega

/-- Settles O12: in range, a wider read joins the bytes of the narrower one below further bytes. -/
theorem narrowReadsAgree : Obligations.NarrowReadsAgree := by
  intro v off s
  refine ⟨fun h0 h2 => ?_, fun h0 h4 => ?_⟩
  · rw [State.readU16_eq, State.readU8_eq, if_pos ⟨h0, h2⟩, if_pos ⟨h0, by omega⟩, half_low]
  · rw [State.readU32_eq, State.readU16_eq, if_pos ⟨h0, h4⟩, if_pos ⟨h0, by omega⟩, word_low]

/-! ### Host writes -/

/-- A host write of a region changes fields of regions only. -/
theorem State.eq_of_hostFrame {r : Region} {s t : State} (h : s.hostFrame r t) :
    t = { s with vram := t.vram, io := t.io, bgPltt := t.bgPltt, objPltt := t.objPltt, oam := t.oam, fb := t.fb } := by
  obtain ⟨regs, line, result, port, -, -⟩ := h
  cases t
  simp only at regs line result port
  rw [regs, line, result, port]

theorem extractLsb'_eq_ofNat {n : Nat} (v : BitVec n) (lo len : Nat) :
    v.extractLsb' lo len = BitVec.ofNat len (v.toNat / 2 ^ lo) := by
  apply BitVec.eq_of_toNat_eq
  rw [BitVec.extractLsb'_toNat, Nat.shiftRight_eq_div_pow, BitVec.toNat_ofNat]

/-- Settles O13: the byte law and the frame of `MemWrite`. -/
theorem hostStoreBytes : Obligations.HostStoreBytes := by
  intro r off n v s
  refine ⟨s.memWrite r off.toInt n v, rfl, State.eq_of_hostFrame (State.memWrite_frame s r off.toInt n v), fun r' a => ?_⟩
  rw [State.memWrite_regionByte, extractLsb'_eq_ofNat]

/-- Settles O14: the byte law and the frame of `FILL`; the two assignments by definition. -/
theorem hostFillAndRegisters : Obligations.HostFillAndRegisters :=
  ⟨fun r off len b s => ⟨s.memFill r off.toInt len.toNat b, rfl,
    State.eq_of_hostFrame (State.memFill_frame s r off.toInt len.toNat b),
    fun r' a => State.memFill_regionByte s r off.toInt len.toNat b r' a⟩, fun _ _ => ⟨rfl, rfl⟩⟩

/-! ### Host reads -/

/-- A host read as one little-endian number, 0 as a whole where it leaves the region (assumption 31). -/
theorem State.hostRead_eq (s : State) (r : Region) (off : Int) (n : Width) : s.hostRead r off n =
    if 0 ≤ off ∧ off + widthBytes n ≤ regionSize r then BitVec.ofNat 32 (assemble (s.regionByte r) off.toNat n).toNat else 0 := by
  unfold State.hostRead memRead
  by_cases h : 0 ≤ off ∧ off + widthBytes n ≤ regionSize r
  · rw [if_pos ((inRange_iff _ _ _).2 h), if_pos h, BitVec.ofNat_toNat, BitVec.setWidth_eq]
  · rw [if_neg fun e => h ((inRange_iff _ _ _).1 e), if_neg h]

theorem exec_hostRead (s : State) (r : Region) (off : Word) (n : Width) :
    exec (.hostRead r off n) s = .next { s with result := .value (s.hostRead r off.toInt n) } := rfl

/-- A host read of one byte inside the region. -/
theorem exec_hostRead_byte (s : State) (r : Region) (off : Word) (h0 : 0 ≤ off.toInt) (h1 : off.toInt < regionSize r) :
    exec (.hostRead r off .w1) s =
      .next { s with result := .value (BitVec.ofNat 32 (s.regionByte r off.toInt.toNat).toNat) } := by
  rw [exec_hostRead, State.hostRead_eq, if_pos ⟨h0, by simp only [widthBytes]; omega⟩, assemble_toNat]

theorem regionByte_fb_toNat (s : State) (o : Nat) :
    (s.regionByte .fb o).toNat = (s.fbWord (o / 4)).toNat / 2 ^ (8 * (o % 4)) % 256 := by
  show (BitVec.extractLsb' _ 8 _).toNat = _
  rw [BitVec.extractLsb'_toNat, Nat.shiftRight_eq_div_pow]
  rfl

/-- Settles O15: each clause is the byte law of reads, with the byte law of writes before it where there is one. -/
theorem hostReadSeesLastWrite : Obligations.HostReadSeesLastWrite := by
  refine ⟨fun r off s h0 h1 => exec_hostRead_byte s r off h0 h1, fun r off s => ?wide, fun off s h0 h1 => ?framebuffer,
    fun r off h0 h1 => ?reset, fun r off v s h0 h1 => ⟨s.memWrite r off.toInt .w1 v, rfl, ?written, fun r' off' ne h0' h1' => ?other⟩⟩
  case wide =>
    simp only [exec_hostRead, State.hostRead_eq, assemble_toNat]
    exact ⟨rfl, rfl, rfl⟩
  case framebuffer =>
    refine (exec_hostRead_byte s .fb off h0 h1).trans ?_
    rw [regionByte_fb_toNat]
  case reset =>
    rw [exec_hostRead_byte _ r off h0 h1, reset_regionByte]
    rfl
  case written =>
    rw [exec_hostRead_byte _ r off h0 h1, State.memWrite_regionByte,
      if_pos ⟨rfl, by omega, by simp only [widthBytes]; omega, by omega⟩]
    have first : ((off.toInt.toNat : Int) - off.toInt).toNat = 0 := by omega
    rw [first, BitVec.extractLsb'_toNat]
    simp
  case other =>
    rw [exec_hostRead_byte _ r' off' h0' h1', State.memWrite_regionByte, if_neg]
    rintro ⟨rfl, le, lt, -⟩
    simp only [widthBytes] at lt
    have same : off'.toInt = off.toInt := by omega
    exact ne (by rw [BitVec.eq_of_toInt_eq same])

/-- Settles O16: the reference is read in the state that is asked. -/
theorem getFramebufferIsAReference : Obligations.GetFramebufferIsAReference := fun _ => ⟨rfl, fun _ _ => rfl⟩

end Sys2Proof.Machine
end

section
/-! DMG tile pixels, the fetch, and the palettes of 41_pixel_decoders.md and 42_palette.md. -/

namespace Sys2Proof.Machine

open Sys2Proof

/-! ### Tile pixels -/

/-- 41_pixel_decoders.md R454: the index as the bit of the high plane above that of the low plane. -/
theorem decDmg_eq_ofNat (rd : Int → Byte) (ta px py : Int) :
    decDmg rd ta px py =
      BitVec.ofNat 8 (2 * bitsN (rd (ta + 2 * py + 1)) (7 - px).toNat 1 + bitsN (rd (ta + 2 * py)) (7 - px).toNat 1) := by
  have plane (b : Byte) (k : Nat) : bitsN b k 1 = (bit b k).toNat := selBits_one b k
  unfold decDmg
  dsimp only
  rw [plane, plane]
  cases bit (rd (ta + 2 * py + 1)) (7 - px).toNat <;> cases bit (rd (ta + 2 * py)) (7 - px).toNat <;> rfl

/-- Settles O18: DECDMG runs `decDmg` in the DMG view. -/
theorem dmgTilePixel : Obligations.DmgTilePixel := by
  intro ta px py s hx hy lo hi k
  have column : (7 - (px.toNat : Int)).toNat = k := by omega
  show Host.Outcome.next (s.give (.index (decDmg s.dvram8 ta.toInt px.toNat py.toNat))) = _
  rw [decDmg_eq_ofNat, column, bitsN_eq, bitsN_eq]
  rfl

/-- A flipped coordinate of an 8x8 tile, in 8 bits. -/
theorem toNat_flip8 (f : Bool) {a : Byte} (h : a.toNat < 8) :
    ((if f then 7 - a else a).toNat : Int) = if f then 8 - 1 - (a.toNat : Int) else a.toNat := by
  cases f
  case false => rfl
  case true => simp only [if_true]; bv_omega

/-- Settles O20: FETCH decodes at the flipped point, which DECODE is given. -/
theorem fetchFlipsThenDecodes : Obligations.FetchFlipsThenDecodes := by
  intro v ta px py hf vf bpp8 s hx hy
  refine ⟨fetchPixel (s.readU8 v) ta.toInt px.toNat py.toNat hf vf bpp8, rfl, ?_⟩
  rw [exec_decode, toNat_flip8 hf hx, toNat_flip8 vf hy]
  rfl

/-! ### Palettes -/

/-- A 5-bit channel shifted left by 3 (42_palette.md R500). -/
theorem channel5_toNat (c : Half) (lo : Nat) : (bits c lo 5 ++ 0#3).toNat = c.toNat / 2 ^ lo % 32 * 8 := by
  rw [toNat_append_add]
  exact congrArg (· * 8) (bitsN_eq c lo 5)

theorem rgb555_eq_ofNat (c : Half) :
    rgb555 c = BitVec.ofNat 32 (0xFF000000 + c.toNat / 1024 % 32 * 8 * 2 ^ 16 + c.toNat / 32 % 32 * 8 * 2 ^ 8 +
      c.toNat % 32 * 8) := by
  have r : (bits c 0 5 ++ 0#3).toNat = c.toNat % 32 * 8 := by rw [channel5_toNat, pow_zero, Nat.div_one]
  unfold rgb555
  rw [rgba_eq_ofNat, r, channel5_toNat, channel5_toNat]
  rfl

/-- Settles O21: the joined channels as a sum, and no colour is the transparent word. -/
theorem rgb555Conversion : Obligations.Rgb555Conversion := by
  intro c s r g b
  have run : exec (.rgb555ToRgba c) s = .next { s with result := .colour (rgb555 c) } := rfl
  refine ⟨?value, ?notClear⟩
  case value => rw [run, rgb555_eq_ofNat]
  case notClear => rw [← rgb555_eq_ofNat]; exact rgba_ne_zero _ _ _

/-- The slot of a palette register as a number (42_palette.md R504). -/
theorem dmgSlot_toNat (p : Byte) (idx : Nat) : (bits p (2 * idx) 2).toNat = p.toNat / 4 ^ idx % 4 := by
  rw [show (4 : Nat) ^ idx = 2 ^ (2 * idx) from (pow_mul 2 2 idx).symm]
  exact bitsN_eq p (2 * idx) 2

/-- Settles O23: the slot selects the shade; only shade 3 has a fixed colour. -/
theorem dmgShadeOfSlot : Obligations.DmgShadeOfSlot := by
  intro p idx s _
  refine ⟨dmgColour p idx.toNat, rfl, fun darkest => ?_, fun k shade => ?_⟩
  · unfold dmgColour dmgShadeWord
    rw [dif_neg]
    rw [dmgSlot_toNat]
    omega
  · have slot : (bits p (2 * idx.toNat) 2).toNat = k.val := (dmgSlot_toNat p idx.toNat).trans shade
    unfold dmgColour dmgShadeWord
    rw [dif_pos (slot ▸ k.isLt)]
    congr 2
    exact Fin.ext slot

end Sys2Proof.Machine
end

section
/-! Background lines of modes 1 and 2. The model computes over the integers and by `fetch`; here each column is brought to the natural-number
coordinates and bytes in which 43_text_bg.md and 44_affine_bg.md speak. -/

namespace Sys2Proof.Machine

open Sys2Proof

/-! ### Replacing one background's line -/

/-- What a background line operation leaves: the new line, and every other line buffer. -/
theorem setBgLine_frame (s : State) (b w : Nat) (f : Nat → BgCol) (hb : b < 4) :
    let t := s.setBgLine b (bgBuffer w f)
    t = { s with line := t.line } ∧ t.line.spr = s.line.spr ∧
      (∀ x : Nat, t.line.bgCol b x = if x < w then f x else BgCol.transparent) ∧
      ∀ c x : Nat, c < 4 → c ≠ b → t.line.bgCol c x = s.line.bgCol c x := by
  refine ⟨rfl, LineBuffers.setBg_spr _ _ _, fun x => ?_, fun c x hc ne => ?_⟩
  · rw [State.setBgLine_line, LineBuffers.bgCol_setBg _ _ _ _ hb hb, if_pos rfl, bgBuffer_read]
  · rw [State.setBgLine_line, LineBuffers.bgCol_setBg _ _ _ _ hb hc, if_neg ne]

/-! ### Text lines -/

/-- BG colour lookup (42_palette.md R501) over natural numbers. -/
theorem State.bgColour_eq (s : State) (bpp8 : Bool) (pal : Nat) (idx : Byte) :
    s.bgColour bpp8 pal idx =
      rgb555 (s.readU16 .bgPltt ((2 * (if bpp8 then idx.toNat else pal * 16 + idx.toNat) : Nat) : Int)) := by
  unfold State.bgColour State.bgpal paletteIndex
  cases bpp8 <;> simp

/-- The pixel that map entry `e` names at (px, py) of its tile (43_text_bg.md R553), over natural numbers. -/
theorem textTexel_eq (s : State) (cnt e : Half) (x y : Nat) (hx : x < 8) (hy : y < 8) :
    (let idx := fetchPixel s.gvram8 (tileAddrBg (bgCntFields cnt).cb (textEntry e).tile (bit cnt 7)) x y
        (bit e 10) (bit e 11) (bit cnt 7)
      if idx = 0 then BgCol.transparent
      else { colour := s.bgColour (bit cnt 7) (textEntry e).pal idx, prio := (bgCntFields cnt).prio, tprio := 0 }) =
    (let px := if bit e 10 then 7 - x else x
      let py := if bit e 11 then 7 - y else y
      let ta := bitsN cnt 2 2 * 0x4000 + bitsN e 0 10 * (if bit cnt 7 then 64 else 32)
      let b4 := s.readU8 .vramGba ((ta + py * 4 + px / 2 : Nat) : Int)
      let idx := if bit cnt 7 then (s.readU8 .vramGba ((ta + py * 8 + px : Nat) : Int)).toNat
        else if px % 2 = 0 then bitsN b4 0 4 else bitsN b4 4 4
      let c := s.readU16 .bgPltt ((2 * (if bit cnt 7 then idx else bitsN e 12 4 * 16 + idx) : Nat) : Int)
      if idx = 0 then BgCol.transparent else ⟨rgb555 c, BitVec.ofNat 8 (bitsN cnt 0 2), 0⟩) := by
  extract_lets i px py ta b4 idx c
  have address : tileAddrBg (bgCntFields cnt).cb (textEntry e).tile (bit cnt 7) = (ta : Int) := by
    simp only [tileAddrBg, bgCntFields, textEntry, ta]
    split <;> push_cast <;> rfl
  have index : i.toNat = idx := by
    simp only [i, address]
    exact fetchPixel_toNat s.gvram8 ta x y _ _ _ hx hy
  have colour : s.bgColour (bit cnt 7) (textEntry e).pal i = rgb555 c := by
    rw [State.bgColour_eq, index]
    rfl
  have prio : (bgCntFields cnt).prio = BitVec.ofNat 8 (bitsN cnt 0 2) := setWidth_bits_toNat cnt 0 2
  rw [colour, prio]
  exact if_congr ((byte_eq_zero_iff i).trans (by rw [index])) rfl rfl

/-- A scrolled coordinate wrapped by the map, over natural numbers (43_text_bg.md R553). -/
theorem wrap_natCast (x scroll tiles : Nat) : ((x : Int) + scroll) % (tiles * 8) = ((x + scroll) % (tiles * 8) : Nat) := by
  push_cast; rfl

/-- Settles O24: the map entry over natural numbers, then its pixel. -/
theorem textBgLineColumns : Obligations.TextBgLineColumns := by
  intro b y s hb hy cnt hofs vofs mapW mapH column
  have column_eq (x : Nat) : textBgPixel s b.toNat y.toNat x = column x := by
    have run : textBgPixel s b.toNat y.toNat x = textBgColumn s (bgCntFields cnt) hofs vofs x y.toNat := rfl
    have hw : textMapW (bgCntFields cnt).size = (mapW : Int) := textMapW_eq cnt
    have hh : textMapH (bgCntFields cnt).size = (mapH : Int) := textMapH_eq cnt
    rw [run]
    unfold textBgColumn
    simp only [hw, hh, wrap_natCast]
    have div8 (n : Nat) : (n : Int) / 8 = ((n / 8 : Nat) : Int) := rfl
    have mod8 (n : Nat) : (n : Int) % 8 = ((n % 8 : Nat) : Int) := rfl
    have base : (bgCntFields cnt).sb = ((bitsN cnt 8 5 * 0x800 : Nat) : Int) := by simp [bgCntFields]
    simp only [div8, mod8, base, screenBlockAddr_eq]
    exact textTexel_eq s cnt _ _ _ (Nat.mod_lt _ (by decide)) (Nat.mod_lt _ (by decide))
  obtain ⟨frame, spr, line, others⟩ := setBgLine_frame s b.toNat Config.gbaW (textBgPixel s b.toNat y.toNat) hb
  refine ⟨_, rfl, frame, spr, fun x => ?_, others⟩
  rw [line, column_eq]
  rfl

/-! ### Scrolls modulo the map -/

/-- A text line reads the map and the tiles through the view of VRAM and the colours of the background palette, nothing else. -/
theorem textBgColumn_congr {s t : State} (h8 : ∀ o, t.gvram8 o = s.gvram8 o) (h16 : ∀ o, t.gvram16 o = s.gvram16 o)
    (hp : ∀ i, t.bgpal i = s.bgpal i) (cnt : BgCnt) (hofs vofs : Nat) (x y : Int) :
    textBgColumn t cnt hofs vofs x y = textBgColumn s cnt hofs vofs x y := by
  have tiles : t.gvram8 = s.gvram8 := funext h8
  unfold textBgColumn State.bgColour
  simp only [tiles, h16, hp]

/-- 43_text_bg.md R554: a scroll matters modulo the map only. -/
theorem wrap_congr {tiles a b : Nat} (x : Nat) (h : a % (tiles * 8) = b % (tiles * 8)) :
    ((x : Int) + a) % (tiles * 8) = ((x : Int) + b) % (tiles * 8) := by
  rw [wrap_natCast, wrap_natCast]
  exact congrArg Nat.cast (Nat.ModEq.add_left x h)

theorem textBgColumn_congr_scroll (s : State) (cnt : Half) {hofs vofs hofs' vofs' : Nat} (x y : Nat)
    (hx : hofs % ((if bit cnt 14 then 64 else 32) * 8) = hofs' % ((if bit cnt 14 then 64 else 32) * 8))
    (hy : vofs % ((if bit cnt 15 then 64 else 32) * 8) = vofs' % ((if bit cnt 15 then 64 else 32) * 8)) :
    textBgColumn s (bgCntFields cnt) hofs vofs x y = textBgColumn s (bgCntFields cnt) hofs' vofs' x y := by
  have hw : textMapW (bgCntFields cnt).size = ((if bit cnt 14 then 64 else 32 : Nat) : Int) := textMapW_eq cnt
  have hh : textMapH (bgCntFields cnt).size = ((if bit cnt 15 then 64 else 32 : Nat) : Int) := textMapH_eq cnt
  unfold textBgColumn
  simp only [hw, hh, wrap_congr x hx, wrap_congr y hy]

/-- Settles O25: every column depends on the scrolls modulo the map, and on the other inputs the states share. -/
theorem textScrollPeriodicity : Obligations.TextScrollPeriodicity := by
  intro b y s t hb _ vram bgPltt control cnt mapW mapH hx hy
  refine ⟨_, _, rfl, rfl, ?_⟩
  have gvram8 (o : Int) : t.gvram8 o = s.gvram8 o := by
    refine State.readU8_congr t s .vramGba (fun o _ => ?_) o
    simp only [State.viewByte, vram]
  have gvram16 (o : Int) : t.gvram16 o = s.gvram16 o := by
    refine State.readU16_congr t s .vramGba o fun o _ _ _ => ?_
    simp only [State.viewByte, vram]
  have bgpal (i : Int) : t.bgpal i = s.bgpal i := by
    refine State.readU16_congr t s .bgPltt _ fun o _ _ _ => ?_
    simp only [State.viewByte, bgPltt]
  have width : mapW = (if bit cnt 14 then 64 else 32) * 8 := by simp only [mapW]; split <;> rfl
  have height : mapH = (if bit cnt 15 then 64 else 32) * 8 := by simp only [mapH]; split <;> rfl
  have line : bgBuffer Config.gbaW (textBgPixel t b.toNat y.toNat) = bgBuffer Config.gbaW (textBgPixel s b.toNat y.toNat) := by
    refine bgBuffer_congr _ _ _ fun x _ => ?_
    have control' : t.bgCnt b.toNat = cnt := control
    unfold textBgPixel
    rw [textBgColumn_congr gvram8 gvram16 bgpal, control']
    exact textBgColumn_congr_scroll s cnt x y.toNat (width ▸ hx) (height ▸ hy)
  show (t.line.setBg _ _).bg _ = (s.line.setBg _ _).bg _
  rw [LineBuffers.bg_setBg _ _ _ _ hb hb, LineBuffers.bg_setBg _ _ _ _ hb hb, if_pos rfl, if_pos rfl, line]

/-! ### Affine lines -/

/-- A texture coordinate after wrap or clip lies on the axis or is none (44_affine_bg.md R603). -/
theorem wrapOrClip_eq (wrap : Bool) (n u : Int) :
    wrapOrClip wrap n u =
      if 0 ≤ (if wrap then u % n else u) ∧ (if wrap then u % n else u) < n then some (if wrap then u % n else u) else none := by
  unfold wrapOrClip
  by_cases hn : n ≤ 0
  · rw [if_pos hn, if_neg]
    cases wrap
    · simp only [Bool.false_eq_true, if_false]; omega
    · simp only [if_true]
      rcases eq_or_ne n 0 with rfl | h0
      · simp
      · have := Int.emod_nonneg u h0; omega
  · have h0 := Int.emod_nonneg u (b := n) (by omega)
    have h1 := Int.emod_lt_of_pos u (b := n) (by omega)
    cases wrap <;> simp [hn, h0, h1]

/-- The column of a texture point, transparent where a coordinate is none (44_affine_bg.md R603, 49_mode0.md R910). -/
def pointColumn (texel : Int → Int → BgCol) : Option Int → Option Int → BgCol
  | some u, some v => texel u v
  | _, _ => BgCol.transparent

theorem pointColumn_ite (texel : Int → Int → BgCol) (p q : Prop) [Decidable p] [Decidable q] (u v : Int) :
    pointColumn texel (if p then some u else none) (if q then some v else none) =
      if p ∧ q then texel u v else BgCol.transparent := by
  by_cases hp : p <;> by_cases hq : q <;> simp [hp, hq, pointColumn]

/-- A column of an affine background is its texel, where both coordinates lie on their axes. -/
theorem affineBgColumn_eq (s : State) (cnt : BgCnt) (wrap : Bool) (n : Nat) (y : Int) (x : Nat) :
    affineBgColumn s cnt wrap n y x =
      (let N := affineSize cnt.size
      let tx := cursorAt (s.bgRefX n + (s.bgMatrix n).pb * y) (s.bgMatrix n).pa x / 256
      let ty := cursorAt (s.bgRefY n + (s.bgMatrix n).pd * y) (s.bgMatrix n).pc x / 256
      let u := if wrap then tx % N else tx
      let v := if wrap then ty % N else ty
      if (0 ≤ u ∧ u < N) ∧ 0 ≤ v ∧ v < N then affineTexel s cnt u v else BgCol.transparent) := by
  extract_lets N tx ty u v
  have point : affineBgColumn s cnt wrap n y x =
      pointColumn (affineTexel s cnt) (wrapOrClip wrap N tx) (wrapOrClip wrap N ty) := rfl
  rw [point, wrapOrClip_eq, wrapOrClip_eq, pointColumn_ite]

/-- The texel of an affine background at a point of its map (44_affine_bg.md R603). -/
theorem affineTexel_eq (s : State) (cnt : Half) (sx sy : Int) :
    affineTexel s (bgCntFields cnt) sx sy =
      (let t := s.readU8 .vramGba ((bitsN cnt 8 5 * 0x800 : Nat) + sy / 8 * (affineSize (bitsN cnt 14 2) / 8) + sx / 8)
      let idx := s.readU8 .vramGba ((bitsN cnt 2 2 * 0x4000 + t.toNat * 64 : Nat) + sy % 8 * 8 + sx % 8)
      if idx = 0 then BgCol.transparent
      else ⟨rgb555 (s.readU16 .bgPltt (2 * (idx.toNat : Int))), BitVec.ofNat 8 (bitsN cnt 0 2), 0⟩) := by
  have prio : (bgCntFields cnt).prio = BitVec.ofNat 8 (bitsN cnt 0 2) := setWidth_bits_toNat cnt 0 2
  unfold affineTexel
  rw [prio]
  push_cast
  rfl

/-- Side of an affine map (44_affine_bg.md R601). -/
theorem affineSize_eq (cnt : Half) : affineSize (bitsN cnt 14 2) =
    if bitsN cnt 14 2 = 0 then 128 else if bitsN cnt 14 2 = 1 then 256 else if bitsN cnt 14 2 = 2 then 512 else 1024 := by
  have range := bitsN_lt cnt 14 2
  generalize bitsN cnt 14 2 = size at range
  obtain rfl | rfl | rfl | rfl : size = 0 ∨ size = 1 ∨ size = 2 ∨ size = 3 := by omega
  all_goals rfl

/-- Settles O26: the cursor in closed form, then the wrap or clip of its point, then the texel. -/
theorem affineBgLineColumns : Obligations.AffineBgLineColumns := by
  intro wrap cnt n y s hn hy hwrap A pa pb pc pd X Y N cursor column
  have cursor_eq (x : Nat) : cursor x = (cursorAt (X + pb * y.toNat) pa x, cursorAt (Y + pd * y.toNat) pc x) :=
    cursor_iterate pa pc _ x
  have side : affineSize (bitsN cnt 14 2) = N := affineSize_eq cnt
  have side_pos : ¬ N ≤ 0 := by simp only [N]; split_ifs <;> decide
  have column_eq (x : Nat) : affineBgColumn s (bgCntFields cnt) wrap n.toNat y.toNat x = column x := by
    refine (affineBgColumn_eq s (bgCntFields cnt) wrap n.toNat y.toNat x).trans ?_
    have size : (bgCntFields cnt).size = bitsN cnt 14 2 := rfl
    have matrix : s.bgMatrix n.toNat = ⟨pa, pb, pc, pd⟩ := rfl
    have refX : s.bgRefX n.toNat = X := rfl
    have refY : s.bgRefY n.toNat = Y := rfl
    simp only [column, cursor_eq, size, side, matrix, refX, refY, affineTexel_eq]
    generalize cursorAt (X + pb * y.toNat) pa x / 256 = u
    generalize cursorAt (Y + pd * y.toNat) pc x / 256 = v
    have range (z : Int) : 0 ≤ z % N ∧ z % N < N := ⟨Int.emod_nonneg z (by omega), Int.emod_lt_of_pos z (by omega)⟩
    cases wrap
    case true => simp [range]
    case false =>
      simp only [Bool.false_eq_true, if_false, true_and]
      by_cases inside : (0 ≤ u ∧ u < N) ∧ 0 ≤ v ∧ v < N
      · have notClipped : ¬ (u < 0 ∨ N ≤ u ∨ v < 0 ∨ N ≤ v) := by omega
        rw [if_pos inside, if_neg notClipped]
      · have clipped : u < 0 ∨ N ≤ u ∨ v < 0 ∨ N ≤ v := by omega
        rw [if_neg inside, if_pos clipped]
  have hn4 : n.toNat < 4 := by omega
  obtain ⟨frame, spr, line, others⟩ :=
    setBgLine_frame s n.toNat Config.gbaW (affineBgColumn s (bgCntFields cnt) wrap n.toNat y.toNat) hn4
  refine ⟨_, by cases wrap <;> rfl, frame, spr, fun x => ?_, others⟩
  rw [line, column_eq]
  rfl

/-! ### The identity matrix -/

/-- The cursor of the identity matrix at reference point (0, 0) is the pixel itself (44_affine_bg.md R605). -/
theorem affineBgColumn_identity (s : State) (cnt : BgCnt) {x y : Nat} (hx : x < 256) (hy : y < 256)
    (matrix : s.bgMatrix 2 = ⟨256, 0, 0, 256⟩) (refX : s.bgRefX 2 = 0) (refY : s.bgRefY 2 = 0) (size : cnt.size = 1) :
    affineBgColumn s cnt true 2 y x = affineTexel s cnt x y := by
  have side : affineSize 1 = 256 := rfl
  have cursorX : cursorAt (0 + 0 * (y : Int)) 256 x / 256 % 256 = x := by unfold cursorAt; omega
  have cursorY : cursorAt (0 + 256 * (y : Int)) 0 x / 256 % 256 = y := by unfold cursorAt; omega
  rw [affineBgColumn_eq]
  simp only [matrix, refX, refY, size, side, if_true, cursorX, cursorY]
  exact if_pos (by omega)

/-- A text background without scroll whose map is 32 x 32 (43_text_bg.md R552, R553). -/
theorem textBgColumn_unscrolled (s : State) (cnt : BgCnt) {x y : Nat} (hx : x < 256) (hy : y < 256) (size : cnt.size = 0) :
    textBgColumn s cnt 0 0 x y =
      (let e := textEntry (s.gvram16 (cnt.sb + ((y / 8 * 32 + x / 8) * 2 : Nat)))
      let idx := fetchPixel s.gvram8 (tileAddrBg cnt.cb e.tile cnt.bpp8) (x % 8 : Nat) (y % 8 : Nat) e.hflip e.vflip cnt.bpp8
      if idx = 0 then BgCol.transparent
      else { colour := s.bgColour cnt.bpp8 e.pal idx, prio := cnt.prio, tprio := 0 }) := by
  have w : textMapW 0 = 32 := rfl
  have h : textMapH 0 = 32 := rfl
  have wrap (z : Nat) (hz : z < 256) : ((z : Int) + (0 : Nat)) % (32 * 8) = z := by omega
  have address : screenBlockAddr cnt.sb 32 ((x : Int) / 8) ((y : Int) / 8) = cnt.sb + ((y / 8 * 32 + x / 8) * 2 : Nat) := by
    unfold screenBlockAddr
    dsimp only
    omega
  unfold textBgColumn
  simp only [size, w, h, wrap x hx, wrap y hy, address]
  push_cast
  rfl

/-- A map entry whose low twelve bits are a tile number of eight bits names that tile without flips (30_encoding.md R301). -/
theorem textEntry_of_byte {e : Half} {t : Byte} (h : e.toNat % 2 ^ 12 = t.toNat) :
    (textEntry e).tile = t.toNat ∧ (textEntry e).hflip = false ∧ (textEntry e).vflip = false := by
  have := t.isLt
  refine ⟨?_, ?_, ?_⟩
  · show bitsN e 0 10 = _
    rw [bitsN_eq]; omega
  · show bit e 10 = false
    rw [bit_eq, decide_eq_false_iff_not]; omega
  · show bit e 11 = false
    rw [bit_eq, decide_eq_false_iff_not]; omega

theorem fetchPixel_unflipped (rd : Int → Byte) (ta px py : Int) :
    fetchPixel rd ta px py false false true = dec8 rd ta px py := rfl

/-- At 8 bpp the palette bank has no effect (42_palette.md R501). -/
theorem State.bgColour_bpp8 (s : State) (pal : Nat) (idx : Byte) : s.bgColour true pal idx = rgb555 (s.bgpal idx.toNat) := rfl

/-- The matrix and the reference point of BG 2 are at 0x20 to 0x2F (10_state.md R114). -/
theorem bgMatrix_two (s : State) : s.bgMatrix 2 =
    ⟨sext16 (s.readU16 .io 0x20), sext16 (s.readU16 .io 0x22), sext16 (s.readU16 .io 0x24), sext16 (s.readU16 .io 0x26)⟩ := rfl

theorem bgRefX_two (s : State) : s.bgRefX 2 = ((s.readU32 .io 0x28).extractLsb' 0 28).toInt := rfl

theorem bgRefY_two (s : State) : s.bgRefY 2 = ((s.readU32 .io 0x2C).extractLsb' 0 28).toInt := rfl

/-- Settles O27: the cursor is the pixel, and both maps name the same 8 bpp tile there without flips. -/
theorem affineIdentityIsText : Obligations.AffineIdentityIsText := by
  intro b y cnt s hb hy tcnt pa pb pc pd refX refY hwrap hsize tbpp8 tsize tcb tprio hofs vofs map
  refine ⟨_, _, rfl, rfl, ?_⟩
  have matrix : s.bgMatrix 2 = ⟨256, 0, 0, 256⟩ := by rw [bgMatrix_two, pa, pb, pc, pd]; rfl
  have originX : s.bgRefX 2 = 0 := by rw [bgRefX_two, refX]; rfl
  have originY : s.bgRefY 2 = 0 := by rw [bgRefY_two, refY]; rfl
  have line : affineBgBuffer s cnt true 2 y.toNat = bgBuffer Config.gbaW (textBgPixel s b.toNat y.toNat) := by
    refine bgBuffer_congr _ _ _ fun x hx => ?_
    have hx240 : x < 240 := hx
    have text : textBgPixel s b.toNat y.toNat x = textBgColumn s (bgCntFields tcnt) 0 0 x y.toNat := by
      have hofs' : s.bgHofs b.toNat = 0 := hofs
      have vofs' : s.bgVofs b.toNat = 0 := vofs
      unfold textBgPixel
      rw [hofs', vofs']
      rfl
    have texel := map (x / 8) (y.toNat / 8) (by omega) (by omega)
    obtain ⟨tile, hflip, vflip⟩ := textEntry_of_byte texel
    rw [affineBgColumn_identity s (bgCntFields cnt) (by omega) (by omega) matrix originX originY hsize, text,
      textBgColumn_unscrolled s _ (by omega) (by omega) tsize]
    have entryAddr : (bgCntFields tcnt).sb + ((y.toNat / 8 * 32 + x / 8) * 2 : Nat) =
        ((bitsN tcnt 8 5 * 0x800 + (y.toNat / 8 * 32 + x / 8) * 2 : Nat) : Int) := by simp [bgCntFields]
    have tileAddr : (bgCntFields cnt).sb + (y.toNat : Int) / 8 * (affineSize (bgCntFields cnt).size / 8) + (x : Int) / 8 =
        ((bitsN cnt 8 5 * 0x800 + (y.toNat / 8 * 32 + x / 8) : Nat) : Int) := by
      have side : affineSize (bgCntFields cnt).size / 8 = 32 := congrArg (fun k => affineSize k / 8) hsize
      have base : (bgCntFields cnt).sb = bitsN cnt 8 5 * 0x800 := rfl
      rw [side, base]
      omega
    have cb : (bgCntFields tcnt).cb = (bgCntFields cnt).cb := congrArg (fun k : Nat => (k : Int) * 0x4000) tcb
    have prio : (bgCntFields tcnt).prio = (bgCntFields cnt).prio := by
      show (bits tcnt 0 2).setWidth 8 = (bits cnt 0 2).setWidth 8
      rw [setWidth_bits_toNat, setWidth_bits_toNat, tprio]
    have bpp8 : (bgCntFields tcnt).bpp8 = true := tbpp8
    unfold affineTexel
    simp only [entryAddr, tileAddr, State.gvram16, tile, hflip, vflip, cb, prio, bpp8, fetchPixel_unflipped,
      State.bgColour_bpp8, Int.natCast_emod, Nat.cast_ofNat]
    rfl
  show (s.line.setBg 2 _).bg 2 = (s.line.setBg _ _).bg _
  rw [LineBuffers.bg_setBg _ _ _ _ (by decide) (by decide), LineBuffers.bg_setBg _ _ _ _ hb hb, if_pos rfl, if_pos rfl]
  exact line

end Sys2Proof.Machine
end

section
/-! Sprites of modes 1 and 2: one sprite over a line column by column, the object modes at one column, and the loop over the entries. -/

namespace Sys2Proof.Machine

open Sys2Proof

/-! ### Replacing the sprite line -/

/-- What a sprite operation leaves: the new sprite line, and everything else. -/
theorem setSprLine_frame (s : State) (m : Memory SprCol) :
    s.setSprLine m = { s with line := (s.setSprLine m).line } ∧
    (s.setSprLine m).line = { s.line with spr := (s.setSprLine m).line.spr } := ⟨rfl, rfl⟩

/-- The columns after one sprite is drawn over the line (45_sprites.md R651, R661). -/
theorem drawSprite_sprCol (s : State) (k : SpriteKind) (a : ObjAttr) (y x : Nat) :
    (s.setSprLine (drawSprite s k a y s.line)).line.sprCol x =
      if 240 ≤ x then SprCol.empty else spriteColumn s k a y x (s.line.sprCol x) := by
  refine (sprBuffer_read Config.gbaW _ x).trans ?_
  by_cases hx : 240 ≤ x
  · rw [if_pos hx, if_neg (by simpa [Config.gbaW] using hx)]
  · rw [if_neg hx, if_pos (by simpa [Config.gbaW] using hx)]

/-! ### One sprite at one column -/

/-- What a sprite's texel does to its column (45_sprites.md R661). -/
def texelColumn (s : State) (a : ObjAttr) (w tx ty : Int) (c : SprCol) : SprCol :=
  let idx := spriteIndex s a w tx ty
  if idx = 0 then c else c.texel a.omode a.prio (s.objColour a.bpp8 a.pal idx)

/-- What a sprite does to a column it covers: nothing where it has no texel (45_sprites.md R656). -/
def drawTexel (s : State) (a : ObjAttr) (w : Int) (c : SprCol) : Option (Int × Int) → SprCol
  | none => c
  | some (tx, ty) => texelColumn s a w tx ty c

theorem drawTexel_ite (s : State) (a : ObjAttr) (w : Int) (c : SprCol) (inside : Prop) [Decidable inside] (tx ty : Int) :
    drawTexel s a w c (if inside then some (tx, ty) else none) = if inside then texelColumn s a w tx ty c else c := by
  split <;> rfl

theorem spriteColumn_noSize (s : State) (k : SpriteKind) (a : ObjAttr) (y sx : Int) (c : SprCol)
    (size : objSize a.shape a.size = none) : spriteColumn s k a y sx c = c := by
  unfold spriteColumn
  rw [size]

theorem spriteColumn_size (s : State) (k : SpriteKind) (a : ObjAttr) (y sx : Int) (c : SprCol) {w h : Int}
    (size : objSize a.shape a.size = some (w, h)) :
    spriteColumn s k a y sx c =
      if foldY a.yRaw ≤ y ∧ y < foldY a.yRaw + h * boxScale k ∧ foldX a.xRaw ≤ sx ∧ sx < foldX a.xRaw + w * boxScale k then
        drawTexel s a w c (spriteTexel s k a w h (sx - foldX a.xRaw) (y - foldY a.yRaw))
      else c := by
  unfold spriteColumn
  rw [size]
  rfl

/-- A non-affine sprite: each texel of its rectangle, flipped (45_sprites.md R657). -/
theorem spriteColumn_normal (s : State) (a : ObjAttr) (y sx : Int) (c : SprCol) {w h : Int}
    (size : objSize a.shape a.size = some (w, h)) :
    spriteColumn s .normal a y sx c =
      (let xs := foldX a.xRaw
      let ys := foldY a.yRaw
      if ys ≤ y ∧ y < ys + h ∧ xs ≤ sx ∧ sx < xs + w then
        texelColumn s a w (if a.hflip then w - 1 - (sx - xs) else sx - xs) (if a.vflip then h - 1 - (y - ys) else y - ys) c
      else c) := by
  have scale (z : Int) : z * boxScale .normal = z := Int.mul_one z
  rw [spriteColumn_size s .normal a y sx c size, scale, scale]
  rfl

/-- The box of an affine sprite (45_sprites.md R655). -/
theorem boxScale_affine (dbl : Bool) (z : Int) :
    z * boxScale (if dbl then .affineDbl else .affine) = if dbl then 2 * z else z := by
  cases dbl
  · exact Int.mul_one z
  · exact Int.mul_comm z 2

theorem spriteTexel_affine (s : State) (dbl : Bool) (a : ObjAttr) (w h cx iy : Int) :
    spriteTexel s (if dbl then .affineDbl else .affine) a w h cx iy =
      affineSpriteTexel (s.spriteMatrix a.group) w h (if dbl then 2 * w else w) (if dbl then 2 * h else h) cx iy := by
  rw [← boxScale_affine, ← boxScale_affine]
  cases dbl <;> rfl

/-- An affine sprite: each texel of its rectangle that the matrix names for a point of its box (45_sprites.md R656). -/
theorem spriteColumn_affine (s : State) (dbl : Bool) (a : ObjAttr) (y sx : Int) (c : SprCol) {w h : Int}
    (size : objSize a.shape a.size = some (w, h)) {pa pb pc pd : Int} (matrix : s.spriteMatrix a.group = ⟨pa, pb, pc, pd⟩) :
    spriteColumn s (if dbl then .affineDbl else .affine) a y sx c =
      (let xs := foldX a.xRaw
      let ys := foldY a.yRaw
      let bw := if dbl then 2 * w else w
      let bh := if dbl then 2 * h else h
      let irx := sx - xs - bw / 2
      let iry := y - ys - bh / 2
      let tx := (pa * irx + pb * iry) / 256 + w / 2
      let ty := (pc * irx + pd * iry) / 256 + h / 2
      if (ys ≤ y ∧ y < ys + bh ∧ xs ≤ sx ∧ sx < xs + bw) ∧ 0 ≤ tx ∧ tx < w ∧ 0 ≤ ty ∧ ty < h then
        texelColumn s a w tx ty c
      else c) := by
  rw [spriteColumn_size s _ a y sx c size, boxScale_affine, boxScale_affine, spriteTexel_affine, matrix]
  unfold affineSpriteTexel
  dsimp only
  rw [drawTexel_ite, ← ite_and]

/-! ### The obligations of one sprite -/

/-- Settles O28: the rectangle, the flips, then the texel's effect on its column. -/
theorem spriteNormalColumns : Obligations.SpriteNormalColumns := by
  intro a0 a1 a2 y s _ _ _ ys xs bpp8 prio column
  obtain ⟨frame, line⟩ := setSprLine_frame s (drawSprite s .normal (objAttr a0 a1 a2) y.toNat s.line)
  refine ⟨_, rfl, frame, line, fun x => ?_⟩
  rw [drawSprite_sprCol]
  refine if_congr Iff.rfl rfl ?_
  cases size : objSize (bitsN a0 14 2) (bitsN a1 14 2) with
  | none => exact spriteColumn_noSize s .normal (objAttr a0 a1 a2) y.toNat x _ size
  | some wh =>
    obtain ⟨w, h⟩ := wh
    refine (spriteColumn_normal s (objAttr a0 a1 a2) y.toNat x (s.line.sprCol x) size).trans ?_
    refine if_congr Iff.rfl ?_ rfl
    exact spriteTexelColumn s a0 a1 a2 w _ _ _

/-- Settles O29: the box, the matrix, then the texel's effect on its column. -/
theorem spriteAffineColumns : Obligations.SpriteAffineColumns := by
  intro dbl a0 a1 a2 y s _ _ _ ys xs g p bpp8 prio column
  have matrix : s.spriteMatrix (objAttr a0 a1 a2).group = ⟨p 3, p 7, p 11, p 15⟩ := rfl
  let k : SpriteKind := if dbl then .affineDbl else .affine
  obtain ⟨frame, line⟩ := setSprLine_frame s (drawSprite s k (objAttr a0 a1 a2) y.toNat s.line)
  refine ⟨_, by cases dbl <;> rfl, frame, line, fun x => ?_⟩
  rw [drawSprite_sprCol]
  refine if_congr Iff.rfl rfl ?_
  cases size : objSize (bitsN a0 14 2) (bitsN a1 14 2) with
  | none => exact spriteColumn_noSize s k (objAttr a0 a1 a2) y.toNat x _ size
  | some wh =>
    obtain ⟨w, h⟩ := wh
    refine (spriteColumn_affine s dbl (objAttr a0 a1 a2) y.toNat x (s.line.sprCol x) size matrix).trans ?_
    refine if_congr Iff.rfl ?_ rfl
    exact spriteTexelColumn s a0 a1 a2 w _ _ _

/-! ### Hidden sprites -/

theorem objMode_hidden {a0 : Half} (h : bitsN a0 10 2 = 3) : objMode a0 = .hidden := by
  rw [bitsN_two] at h
  unfold objMode
  cases h11 : bit a0 11 <;> cases h10 : bit a0 10 <;> simp [h11, h10] at h ⊢

/-- A sprite of object mode 3 leaves every column (45_sprites.md R653). -/
theorem texelColumn_hiddenMode (s : State) {a : ObjAttr} (w tx ty : Int) (c : SprCol) (h : a.omode = .hidden) :
    texelColumn s a w tx ty c = c := by
  unfold texelColumn
  rw [h]
  exact ite_self c

theorem spriteColumn_hiddenMode (s : State) (k : SpriteKind) {a : ObjAttr} (y sx : Int) (c : SprCol) (h : a.omode = .hidden) :
    spriteColumn s k a y sx c = c := by
  cases size : objSize a.shape a.size with
  | none => exact spriteColumn_noSize s k a y sx c size
  | some wh =>
    rw [spriteColumn_size s k a y sx c size]
    split
    · cases spriteTexel s k a wh.1 wh.2 (sx - foldX a.xRaw) (y - foldY a.yRaw) with
      | none => rfl
      | some t => exact texelColumn_hiddenMode s _ _ _ _ h
    · rfl

theorem objSize_reserved (size : Nat) : objSize 3 size = none := rfl

/-- Settles O30: by the arms that do nothing, and by the columns a sprite without texels or without size leaves. -/
theorem hiddenSpritesDrawNothing : Obligations.HiddenSpritesDrawNothing := by
  refine ⟨fun _ _ _ _ _ => rfl, fun _ _ => rfl, fun i a0 a1 a2 y s row hidden => ?_⟩
  have stays (k : SpriteKind) (x : Nat) (hx : x < 240) :
      (s.setSprLine (drawSprite s k (objAttr a0 a1 a2) y.toNat s.line)).line.sprCol x = s.line.sprCol x := by
    rw [drawSprite_sprCol, if_neg (by omega)]
    obtain mode | shape := hidden
    · exact spriteColumn_hiddenMode s k _ _ _ (objMode_hidden mode)
    · refine spriteColumn_noSize s k _ _ _ _ ?_
      show objSize (bitsN a0 14 2) _ = none
      rw [shape, objSize_reserved]
  obtain rfl | rfl | rfl := row
  · exact ⟨_, rfl, rfl, rfl, stays .normal⟩
  · exact ⟨_, rfl, rfl, rfl, stays .affine⟩
  · exact ⟨_, rfl, rfl, rfl, stays .affineDbl⟩

/-! ### Object modes at one column -/

theorem updateSprCol_sprCol (s : State) (sx : Nat) (f : SprCol → SprCol) (x : Nat) :
    (s.updateSprCol sx f).line.sprCol x = if x = sx then f (s.line.sprCol sx) else s.line.sprCol x :=
  Memory.read_write _ _ _ _ _

/-- 45_sprites.md R659 with numbers for the priorities. -/
theorem SprCol.offer_eq (c : SprCol) (prio : Byte) (w : Word) (semi : Bool) :
    c.offer prio w semi = if c.prio = 0xFF ∨ prio.toNat ≤ c.prio.toNat then ⟨w, prio, semi, c.objwin⟩ else c := rfl

/-- Settles O31: each row updates its column by the object mode's rule. -/
theorem objectModesAtAColumn : Obligations.ObjectModesAtAColumn := by
  intro sx prio c s old wins outcome
  have update (f : SprCol → SprCol) : ∃ t : State, Host.Outcome.next (s.updateSprCol sx.toNat f) =
      (Host.Outcome.next t : Answer) ∧ t = { s with line := t.line } ∧ t.line = { s.line with spr := t.line.spr } ∧
      ∀ x : Nat, t.line.sprCol x = if x = sx.toNat then f old else s.line.sprCol x :=
    ⟨_, rfl, rfl, rfl, updateSprCol_sprCol s sx.toNat f⟩
  refine ⟨?_, ?_, ?_, ?_⟩
  · exact update fun col => col.offer prio (rgb555 c) false
  · exact update fun col => col.offer prio (rgb555 c) true
  · exact update SprCol.markWindow
  · refine ⟨s, rfl, rfl, rfl, fun x => ?_⟩
    split
    · next e => rw [e]
    · rfl

/-! ### Sizes -/

/-- Settles O32: each row looks up its size. -/
theorem objectSizes : Obligations.ObjectSizes := by
  intro affine dbl y x s k ys xs gives
  have scale : (if (affine && dbl) = true then 2 else 1 : Int) = k := by cases affine <;> cases dbl <;> rfl
  have bounds (shape size : Nat) (w h : Int) (e : objSize shape size = some (w, h)) :
      objBounds shape size affine dbl y x = .bounds w h (w * k) (h * k) xs ys := by
    unfold objBounds
    rw [e]
    simp only [scale]
    rfl
  have row (shape size : Nat) (w h : Int) (e : objSize shape size = some (w, h)) :
      (Host.Outcome.next (s.give (objBounds shape size affine dbl y x)) : Answer) =
        .next { s with result := .bounds w h (w * k) (h * k) xs ys } := by rw [bounds shape size w h e]; rfl
  exact ⟨row 0 0 8 8 rfl, row 0 1 16 16 rfl, row 0 2 32 32 rfl, row 0 3 64 64 rfl, row 1 0 16 8 rfl, row 1 1 32 8 rfl,
    row 1 2 32 16 rfl, row 1 3 64 32 rfl, row 2 0 8 16 rfl, row 2 1 8 32 rfl, row 2 2 16 32 rfl, row 2 3 32 64 rfl,
    fun _ => rfl⟩

/-! ### The loop over the entries -/

/-- The entries of a list drawn one after the other are the fold of their columns. -/
theorem execAll_spriteInstr (s : State) (y : Byte) (l : List Nat) (f : Nat → SprCol) :
    execAll (l.map (s.spriteInstr y)) (s.setSprLine (sprBuffer Config.gbaW f)) =
      .next (s.setSprLine (sprBuffer Config.gbaW fun sx => l.foldl (fun c i => s.oamSprite i y.toNat sx c) (f sx))) := by
  induction l generalizing f with
  | nil => rfl
  | cons i l ih =>
    simp only [List.map_cons, execAll, exec_spriteInstr, List.foldl_cons]
    exact ih _

/-- Settles O33: the loops over entries and columns are exchanged (assumption 21). -/
theorem spriteLineRunsTheEntries : Obligations.SpriteLineRunsTheEntries := by
  intro y s _ start
  have fresh : start = s.setSprLine (sprBuffer Config.gbaW fun _ => SprCol.empty) := emptySprLine_eq s
  have on : bit (s.readU16 .io 0) 12 = s.objOn := rfl
  refine ⟨_, rfl, ?_⟩
  rw [on, fresh]
  cases objOn : s.objOn with
  | true =>
    rw [if_pos rfl, execAll_spriteInstr]
    congr 3
    funext sx
    unfold spritePixel
    rw [objOn]
    rfl
  | false =>
    rw [if_neg Bool.false_ne_true]
    show Host.Outcome.next _ = _
    congr 3
    funext sx
    unfold spritePixel
    rw [objOn]
    rfl

/-! ### The tie-break -/

/-- What the columns satisfy once entries `n - 1` down to `k` are drawn, when the winner is entry `i`: before it, no smaller
priority shows; from it on, it shows. -/
def WinnerUntil (i : Nat) (p : Byte) (w : Word) (m : Bool) (k : Nat) (c : SprCol) : Prop :=
  if i < k then c.prio = 0xFF ∨ p.toNat ≤ c.prio.toNat else c.colour = w ∧ c.prio = p ∧ c.semi = m

/-- An entry drawn over a column, of those that the winner beats. -/
def LosesTo (i : Nat) (p : Byte) (j : Nat) (f : SprCol → SprCol) : Prop :=
  (∀ c, (f c).colour = c.colour ∧ (f c).prio = c.prio ∧ (f c).semi = c.semi) ∨
  ∃ p' w' m', (∀ c, f c = c.offer p' w' m') ∧ (p.toNat < p'.toNat ∨ (p.toNat = p'.toNat ∧ i < j))

/-- The winner's offer wins against whatever was drawn before it. -/
theorem winnerUntil_offer {i : Nat} {p : Byte} {w : Word} {m : Bool} {c : SprCol} (h : WinnerUntil i p w m (i + 1) c) :
    WinnerUntil i p w m i (c.offer p w m) := by
  have wins : c.prio = 0xFF ∨ p.toNat ≤ c.prio.toNat := by simpa [WinnerUntil] using h
  rw [SprCol.offer_eq, if_pos wins]
  simp [WinnerUntil]

/-- An entry that loses to the winner does not show over it, and before it leaves a priority the winner beats. -/
theorem winnerUntil_losesTo {i k : Nat} {p : Byte} {w : Word} {m : Bool} {c : SprCol} {f : SprCol → SprCol}
    (hne : k ≠ i) (loses : LosesTo i p k f) (h : WinnerUntil i p w m (k + 1) c) : WinnerUntil i p w m k (f c) := by
  obtain same | ⟨p', w', m', offer, behind⟩ := loses
  · obtain ⟨colour, prio, semi⟩ := same c
    have before : i < k + 1 ↔ i < k := by omega
    simpa only [WinnerUntil, colour, prio, semi, before] using h
  · rw [offer, SprCol.offer_eq]
    unfold WinnerUntil at h ⊢
    by_cases before : i < k
    · rw [if_pos (by omega)] at h
      rw [if_pos before]
      split
      · exact Or.inr (by show p.toNat ≤ p'.toNat; omega)
      · exact h
    · rw [if_neg (by omega)] at h
      obtain ⟨colour, prio, semi⟩ := h
      have notFF : c.prio ≠ 0xFF := by
        rw [prio]
        rintro rfl
        have : (0xFF : Byte).toNat = 255 := rfl
        have := p'.isLt
        omega
      have smaller : ¬ p'.toNat ≤ c.prio.toNat := by rw [prio]; omega
      rw [if_neg before, if_neg (not_or.mpr ⟨notFF, smaller⟩)]
      exact ⟨colour, prio, semi⟩

/-- The winner's offer, made after every entry it does not beat by index and before the others, stays. -/
theorem offer_fold_winner {n i : Nat} (hi : i < n) (f : Nat → SprCol → SprCol) {p : Byte} {w : Word} {m : Bool}
    (own : ∀ c, f i c = c.offer p w m) (others : ∀ j, j < n → j ≠ i → LosesTo i p j (f j)) :
    WinnerUntil i p w m 0 ((List.range n).reverse.foldl (fun c j => f j c) SprCol.empty) := by
  refine foldl_down_induction (WinnerUntil i p w m) n f SprCol.empty ?_ fun j c hj h => ?_
  · unfold WinnerUntil
    rw [if_pos hi]
    exact Or.inl rfl
  · by_cases e : j = i
    · subst e
      rw [own]
      exact winnerUntil_offer h
    · exact winnerUntil_losesTo e (others j hj e) h

/-- What an OAM entry, drawn alone, leaves at a column. -/
theorem spriteInstr_alone (s : State) (y : Byte) (i : Nat) :
    ∃ t : State, exec (s.spriteInstr y i) { s with line := { s.line with spr := [] } } = .next t ∧
      ∀ x : Nat, x < 240 → t.line.sprCol x = s.oamSprite i y.toNat x SprCol.empty := by
  rw [emptySprLine_eq, exec_spriteInstr]
  exact ⟨_, rfl, fun x hx => (sprBuffer_read Config.gbaW _ x).trans (if_pos hx)⟩

/-- What SPRITE_LINE leaves at a column when sprites are on: the fold of the entries (45_sprites.md R661). -/
theorem spriteLine_column (s : State) (y : Nat) {x : Nat} (on : s.objOn = true) (hx : x < 240) :
    (s.setSprLine (sprBuffer Config.gbaW (spritePixel s y))).line.sprCol x =
      (List.range 128).reverse.foldl (fun c j => s.oamSprite j y x c) SprCol.empty := by
  refine (sprBuffer_read Config.gbaW _ x).trans ((if_pos hx).trans ?_)
  unfold spritePixel
  rw [on]
  rfl

/-- A colour offered to an empty column shows there. -/
theorem SprCol.offer_empty (p : Byte) (w : Word) (m : Bool) : SprCol.empty.offer p w m = ⟨w, p, m, false⟩ := if_pos (Or.inl rfl)

/-- Settles O34: the entry that wins alone is the winner of the loop from the last entry down to the first. -/
theorem spriteTieBreak : Obligations.SpriteTieBreak := by
  intro y s i x _ hi hx on alone shown first
  have alone_eq (j : Nat) : alone j = s.oamSprite j y.toNat x SprCol.empty := by
    obtain ⟨t, run, column⟩ := spriteInstr_alone s y j
    show (match exec (s.spriteInstr y j) { s with line := { s.line with spr := [] } } with
      | .next t => t.line.sprCol x
      | _ => SprCol.empty) = _
    rw [run]
    exact column x hx
  rw [alone_eq i] at shown ⊢
  obtain same | ⟨p, w, m, _, _, offer⟩ := oamSprite_cases s y i x
  · exact absurd (same SprCol.empty).1 shown
  have others : ∀ j, j < 128 → j ≠ i → LosesTo i p j (s.oamSprite j y.toNat x) := by
    intro j hj hne
    obtain same | ⟨p', w', m', _, hw', offer'⟩ := oamSprite_cases s y j x
    · exact Or.inl same
    · have beaten := first j hj
      rw [alone_eq i, alone_eq j, offer, offer', SprCol.offer_empty, SprCol.offer_empty] at beaten
      refine Or.inr ⟨p', w', m', offer', (beaten hw').imp id fun ⟨tie, before⟩ => ?_⟩
      exact ⟨congrArg BitVec.toNat tie, by omega⟩
  have winner := offer_fold_winner hi (fun j => s.oamSprite j y.toNat x) offer others
  refine ⟨_, rfl, ?_⟩
  rw [spriteLine_column s y.toNat on hx, offer, SprCol.offer_empty]
  exact winner

end Sys2Proof.Machine
end

section
/-! Composition of modes 1 and 2: windows, the effects, and the line of the two front contributors. -/

namespace Sys2Proof.Machine

open Sys2Proof

/-! ### Windows -/

/-- 46_compositor.md R722 over the fields of a pair of window registers. -/
theorem inWinRegs_iff (h v : Half) (x y w hs : Nat) :
    inWinRegs h v x y w hs = true ↔
      bitsN h 8 8 ≤ x ∧ x < bitsN h 0 8 ∧ bitsN h 0 8 ≤ w ∧ bitsN v 8 8 ≤ y ∧ y < bitsN v 0 8 ∧ bitsN v 0 8 ≤ hs := by
  unfold inWinRegs
  rw [inWin_iff]
  omega

/-- Settles O35: a rectangle that holds a pixel is neither inverted nor too large. -/
theorem windowMembership : Obligations.WindowMembership := by
  intro h v x y w hs s x1 x2 y1 y2
  have inside : inWinRegs h v x.toNat y.toNat w.toNat hs.toNat =
      decide (x1 ≤ x2 ∧ y1 ≤ y2 ∧ x2 ≤ w.toNat ∧ y2 ≤ hs.toNat ∧
        x1 ≤ x.toNat ∧ x.toNat < x2 ∧ y1 ≤ y.toNat ∧ y.toNat < y2) := by
    rw [Bool.eq_iff_iff, inWinRegs_iff, decide_eq_true_iff]
    omega
  rw [← inside]
  rfl

/-- The enable set with one condition per case (46_compositor.md R723). -/
theorem WindowCase.enables_eq (c : WindowCase) : c.enables =
    if c.win0On = false ∧ c.win1On = false ∧ c.objwinOn = false then 63
    else if c.win0On = true ∧ c.in0 = true then c.set0
    else if c.win1On = true ∧ c.in1 = true then c.set1
    else if c.objwinOn = true ∧ c.inObj = true then c.setObj
    else c.setOut := by
  unfold WindowCase.enables
  simp only [Bool.and_eq_true, Bool.not_eq_true', and_assoc]

/-- A field of three neighbouring bits is 0 exactly when each bit is. -/
theorem bitsN_three_eq_zero {n : Nat} (v : BitVec n) (lo : Nat) :
    bitsN v lo 3 = 0 ↔ bit v lo = false ∧ bit v (lo + 1) = false ∧ bit v (lo + 2) = false := by
  have e1 : v.toNat / 2 ^ (lo + 1) = v.toNat / 2 ^ lo / 2 := by rw [Nat.pow_succ, Nat.div_div_eq_div_mul]
  have e2 : v.toNat / 2 ^ (lo + 2) = v.toNat / 2 ^ lo / 2 / 2 := by rw [Nat.pow_succ, ← Nat.div_div_eq_div_mul, e1]
  simp only [bitsN_eq, bit_eq, e1, e2, decide_eq_false_iff_not]
  omega

/-- Settles O36: the case split of R723, each window on its own switch. -/
theorem windowPrecedence : Obligations.WindowPrecedence := by
  intro x y s _ _ dispcnt isIn in0 in1 inObj winin winout
  have isIn_iff (h v : Half) : inWinRegs h v x.toNat y.toNat Config.gbaW Config.gbaH = true ↔ isIn h v :=
    inWinRegs_iff h v x.toNat y.toNat Config.gbaW Config.gbaH
  have case0 : s.win0On = true ∧ inWinRegs s.win0H s.win0V x.toNat y.toNat Config.gbaW Config.gbaH = true ↔ in0 :=
    and_congr Iff.rfl (isIn_iff s.win0H s.win0V)
  have case1 : s.win1On = true ∧ inWinRegs s.win1H s.win1V x.toNat y.toNat Config.gbaW Config.gbaH = true ↔ in1 :=
    and_congr Iff.rfl (isIn_iff s.win1H s.win1V)
  have allOff : s.win0On = false ∧ s.win1On = false ∧ s.objwinOn = false ↔ bitsN dispcnt 13 3 = 0 :=
    (bitsN_three_eq_zero dispcnt 13).symm
  have caseObj : s.objwinOn = true ∧ (s.line.sprCol x.toNat).objwin = true ↔ inObj := Iff.rfl
  have on_of_in0 : in0 → ¬ bitsN dispcnt 13 3 = 0 := fun h off => by
    have := case0.mpr h
    simp [allOff.mpr off] at this
  have on_of_in1 : in1 → ¬ bitsN dispcnt 13 3 = 0 := fun h off => by
    have := case1.mpr h
    simp [allOff.mpr off] at this
  have on_of_inObj : inObj → ¬ bitsN dispcnt 13 3 = 0 := fun h off => by
    have := caseObj.mpr h
    simp [allOff.mpr off] at this
  refine ⟨gbaEnables s (s.line.sprCol x.toNat).objwin x.toNat y.toNat, rfl, ?_⟩
  unfold gbaEnables
  rw [WindowCase.enables_eq]
  simp only [allOff, case0, case1, caseObj]
  refine ⟨fun off => ?_, fun h0 => ?_, fun n0 h1 => ?_, fun n0 n1 hobj => ?_, fun on n0 n1 nobj => ?_⟩
  · rw [if_pos off]
    rfl
  · rw [if_neg (on_of_in0 h0), if_pos h0]
    rfl
  · rw [if_neg (on_of_in1 h1), if_neg n0, if_pos h1]
    rfl
  · rw [if_neg (on_of_inObj hobj), if_neg n0, if_neg n1, if_pos hobj]
    rfl
  · rw [if_neg on, if_neg n0, if_neg n1, if_neg nobj]
    rfl

/-! ### The effects -/

theorem secondTarget_some (bl : Blend) (u : Contributor) :
    secondTarget bl (some u) = if inSet bl.second u.layer then some u else none := by
  unfold secondTarget
  rw [Option.filter_some]

/-- ALPHA with both targets (46_compositor.md R731). -/
theorem effectAlphaOut_targets {bl : Blend} {top u : Contributor} (first : inSet bl.first top.layer = true)
    (second : inSet bl.second u.layer = true) : effectAlphaOut bl top (some u) = alpha bl top.colour u.colour := by
  unfold effectAlphaOut
  rw [secondTarget_some, if_pos second]
  exact if_pos first

/-- ALPHA with a target missing (46_compositor.md R731). -/
theorem effectAlphaOut_missing {bl : Blend} {top : Contributor} {bot : Option Contributor}
    (h : inSet bl.first top.layer = false ∨ secondTarget bl bot = none) : effectAlphaOut bl top bot = top.colour := by
  unfold effectAlphaOut
  obtain first | none := h
  · rw [first]
    split <;> rfl
  · rw [none]

/-- Settles O37: ALPHA by whether both targets are there. -/
theorem effectNoneAndAlpha : Obligations.EffectNoneAndAlpha := by
  intro cnt top bot s eva evb
  refine ⟨fun _ => rfl, fun _ => ⟨opaquePixel (effectAlphaOut (gbaBlend s cnt) top bot), rfl, opaquePixel_alpha _, ?_, ?_⟩⟩
  · rintro u rfl first second k hk
    rw [opaquePixel_channel _ k hk, effectAlphaOut_targets ((inSet_first cnt top.layer).trans first)
      ((inSet_second cnt u.layer).trans second), alpha_channel _ _ _ k hk]
    rfl
  · intro missing
    rw [opaquePixel_rgb, effectAlphaOut_missing]
    obtain first | rfl | ⟨u, rfl, second⟩ := missing
    · exact Or.inl ((inSet_first cnt top.layer).trans first)
    · exact Or.inr rfl
    · refine Or.inr ?_
      have target : inSet (gbaBlend s cnt).second u.layer = false := (inSet_second cnt u.layer).trans second
      rw [secondTarget_some, target]
      rfl

theorem gbaBlend_evy_le (s : State) (cnt : Half) : (gbaBlend s cnt).evy ≤ 16 := Nat.min_le_left _ _

/-- Each channel of BRIGHTEN (46_compositor.md R729, R731). -/
theorem effectBrightenOut_channel {bl : Blend} (top : Contributor) (h : bl.evy ≤ 16) {k : Nat} (hk : k < 3) :
    bitsN (effectBrightenOut bl top) (8 * k) 8 =
      if inSet bl.first top.layer then brightenChannel bl.evy (bitsN top.colour (8 * k) 8) else bitsN top.colour (8 * k) 8 := by
  unfold effectBrightenOut
  split
  · exact mapChannels_channel _ (brightenChannel_lt bl.evy h) top.colour k hk
  · rfl

/-- Each channel of DARKEN (46_compositor.md R730, R731). -/
theorem effectDarkenOut_channel (bl : Blend) (top : Contributor) {k : Nat} (hk : k < 3) :
    bitsN (effectDarkenOut bl top) (8 * k) 8 =
      if inSet bl.first top.layer then darkenChannel bl.evy (bitsN top.colour (8 * k) 8) else bitsN top.colour (8 * k) 8 := by
  unfold effectDarkenOut
  split
  · exact mapChannels_channel _ (darkenChannel_lt bl.evy) top.colour k hk
  · rfl

/-- Settles O38: each channel by whether the top layer is a first target. -/
theorem effectBrightenAndDarken : Obligations.EffectBrightenAndDarken := by
  intro cnt top bot s evy first
  have target : inSet (gbaBlend s cnt).first top.layer = first := inSet_first cnt top.layer
  refine ⟨fun _ => ⟨_, rfl, opaquePixel_alpha _, fun k hk => ?_⟩, fun _ => ⟨_, rfl, opaquePixel_alpha _, fun k hk => ?_⟩⟩
  · rw [opaquePixel_channel _ k hk, effectBrightenOut_channel top (gbaBlend_evy_le s cnt) hk, target]
    rfl
  · rw [opaquePixel_channel _ k hk, effectDarkenOut_channel _ top hk, target]
    rfl

/-- Settles O39: R731 by whether the lower layer is a second target. -/
theorem semiSpriteForcesAlpha : Obligations.SemiSpriteForcesAlpha := by
  intro t bot s cnt eva evb
  have target : inSet (gbaBlend s s.bldcnt).second bot.layer = bit cnt (8 + layerNum bot.layer) := inSet_second cnt bot.layer
  refine ⟨opaquePixel (blendOut (gbaBlend s s.bldcnt) ⟨.obj, t, true⟩ (some bot)), rfl, opaquePixel_alpha _,
    fun second k hk => ?_, fun second => ?_⟩
  · rw [opaquePixel_channel _ k hk]
    unfold blendOut
    rw [secondTarget_some, target, second]
    exact alpha_channel _ t bot.colour k hk
  · have switch : blendOut (gbaBlend s s.bldcnt) ⟨.obj, t, true⟩ (some bot) =
        effectOut (gbaBlend s s.bldcnt) ⟨.obj, t, true⟩ (some bot) := by
      unfold blendOut
      rw [secondTarget_some, target, second]
      rfl
    rw [switch]
    exact exec_effectRow s ⟨.obj, t, true⟩ (some bot)

/-! ### The order of the contributors -/

/-- Which of two layers of a column is in front, the order of the backgrounds among themselves given (46_compositor.md R725,
49_mode0.md R913): the sprite is in front of every background of no smaller priority, the backdrop behind everything. -/
def layerInFront (spr : SprCol) (bg : Nat → BgCol) (bgInFront : Nat → Nat → Prop) (l m : Layer) : Prop :=
  match l, m with
  | .bd, _ => False
  | _, .bd => True
  | .obj, .obj => False
  | .obj, m => spr.prio.toNat ≤ (bg (layerNum m)).prio.toNat
  | l, .obj => (bg (layerNum l)).prio.toNat < spr.prio.toNat
  | l, m => bgInFront (layerNum l) (layerNum m)

section
variable {spr : SprCol} {bg : Nat → BgCol} {bgInFront : Nat → Nat → Prop}

theorem layerInFront_obj_bg {b : Nat} (hb : b < 4) :
    layerInFront spr bg bgInFront .obj (bgLayer b) ↔ spr.prio.toNat ≤ (bg b).prio.toNat := by
  obtain rfl | rfl | rfl | rfl : b = 0 ∨ b = 1 ∨ b = 2 ∨ b = 3 := by omega
  all_goals exact Iff.rfl

theorem layerInFront_bg_obj {b : Nat} (hb : b < 4) :
    layerInFront spr bg bgInFront (bgLayer b) .obj ↔ (bg b).prio.toNat < spr.prio.toNat := by
  obtain rfl | rfl | rfl | rfl : b = 0 ∨ b = 1 ∨ b = 2 ∨ b = 3 := by omega
  all_goals exact Iff.rfl

theorem layerInFront_bg_bg {b c : Nat} (hb : b < 4) (hc : c < 4) :
    layerInFront spr bg bgInFront (bgLayer b) (bgLayer c) ↔ bgInFront b c := by
  obtain rfl | rfl | rfl | rfl : b = 0 ∨ b = 1 ∨ b = 2 ∨ b = 3 := by omega
  all_goals
    obtain rfl | rfl | rfl | rfl : c = 0 ∨ c = 1 ∨ c = 2 ∨ c = 3 := by omega
    all_goals exact Iff.rfl

theorem layerInFront_bd {l : Layer} (h : l ≠ .bd) : layerInFront spr bg bgInFront l .bd := by
  cases l
  case bd => exact absurd rfl h
  all_goals trivial

end

/-- The backgrounds of modes 1 and 2 among themselves (46_compositor.md R725). -/
def bgInFront (bg : Nat → BgCol) (b c : Nat) : Prop :=
  (bg b).prio.toNat < (bg c).prio.toNat ∨ ((bg b).prio = (bg c).prio ∧ b < c)

theorem bgLayer_ne_bd (b : Nat) : bgLayer b ≠ .bd := by
  unfold bgLayer
  split <;> decide

/-- The layer of a contributor of priority class `p`. -/
theorem layer_of_mem_class {en : BitVec 6} {spr : SprCol} {bg : Nat → BgCol} {p : Byte} {c : Contributor}
    (h : c ∈ classContributors en spr bg p) :
    (c.layer = .obj ∧ spr.prio = p) ∨ ∃ b : Nat, b < 4 ∧ c.layer = bgLayer b ∧ (bg b).prio = p := by
  obtain ⟨rfl, _, _, prio⟩ | ⟨b, hb, rfl, _, _, prio⟩ := (mem_classContributors en spr bg p c).mp h
  · exact Or.inl ⟨rfl, prio⟩
  · exact Or.inr ⟨b, hb, rfl, prio⟩

/-- Within one class the sprite is in front, then the lower background (46_compositor.md R725). -/
theorem classContributors_pairwise (en : BitVec 6) (spr : SprCol) (bg : Nat → BgCol) (p : Byte) :
    (classContributors en spr bg p).Pairwise fun a b => layerInFront spr bg (bgInFront bg) a.layer b.layer := by
  unfold classContributors
  refine List.pairwise_append.mpr ⟨?_, ?_, ?_⟩
  · split
    · exact List.pairwise_singleton _ _
    · exact List.Pairwise.nil
  · refine List.pairwise_map.mpr (List.Pairwise.imp_of_mem ?_ (List.pairwise_lt_range.filter _))
    intro b c hb hc hlt
    simp only [List.mem_filter, List.mem_range, Bool.and_eq_true, decide_eq_true_eq] at hb hc
    obtain ⟨hb4, _, hbp⟩ := hb
    obtain ⟨hc4, _, hcp⟩ := hc
    exact (layerInFront_bg_bg hb4 hc4).mpr (Or.inr ⟨hbp.trans hcp.symm, hlt⟩)
  · intro a ha c hc
    split at ha
    · next on =>
      obtain rfl := List.mem_singleton.mp ha
      simp only [Bool.and_eq_true, decide_eq_true_eq] at on
      simp only [List.mem_map, List.mem_filter, List.mem_range, Bool.and_eq_true, decide_eq_true_eq] at hc
      obtain ⟨b, ⟨hb4, _, hbp⟩, rfl⟩ := hc
      refine (layerInFront_obj_bg hb4).mpr (Nat.le_of_eq ?_)
      rw [on.2, hbp]
    · exact absurd ha List.not_mem_nil

/-- Every contributor of a smaller class is in front (46_compositor.md R725). -/
theorem class_inFront {en : BitVec 6} {spr : SprCol} {bg : Nat → BgCol} {p q : Byte} (hpq : p.toNat < q.toNat)
    {c d : Contributor} (hc : c ∈ classContributors en spr bg p) (hd : d ∈ classContributors en spr bg q) :
    layerInFront spr bg (bgInFront bg) c.layer d.layer := by
  obtain ⟨lc, rfl⟩ | ⟨b, hb, lc, rfl⟩ := layer_of_mem_class hc <;>
    obtain ⟨ld, prio⟩ | ⟨b', hb', ld, prio⟩ := layer_of_mem_class hd <;> rw [lc, ld]
  · rw [prio] at hpq
    omega
  · exact (layerInFront_obj_bg hb').mpr (by rw [prio]; omega)
  · exact (layerInFront_bg_obj hb).mpr (by rw [prio]; omega)
  · exact (layerInFront_bg_bg hb hb').mpr (Or.inl (by rw [prio]; omega))

theorem gbaContributors_pairwise (en : BitVec 6) (spr : SprCol) (bg : Nat → BgCol) (w : Word) :
    (gbaContributors en spr bg w).Pairwise fun a b => layerInFront spr bg (bgInFront bg) a.layer b.layer := by
  unfold gbaContributors
  refine List.pairwise_append.mpr ⟨List.pairwise_flatMap.mpr ⟨fun p _ => classContributors_pairwise en spr bg p, ?_⟩,
    List.pairwise_singleton _ _, ?_⟩
  · have classes : ([0, 1, 2, 3] : List Byte).Pairwise fun p q => p.toNat < q.toNat := by decide
    exact classes.imp fun hpq c hc d hd => class_inFront hpq hc hd
  · intro c hc d hd
    obtain rfl := List.mem_singleton.mp hd
    obtain ⟨p, _, hcp⟩ := List.mem_flatMap.mp hc
    obtain ⟨l, _⟩ | ⟨b, _, l, _⟩ := layer_of_mem_class hcp
    · rw [l]
      trivial
    · rw [l]
      exact layerInFront_bd (bgLayer_ne_bd b)

theorem mem_classes_iff (p : Byte) : p ∈ ([0, 1, 2, 3] : List Byte) ↔ p.toNat ≤ 3 := by
  simp only [List.mem_cons, List.not_mem_nil, or_false, BitVec.toNat_eq]
  show p.toNat = 0 ∨ p.toNat = 1 ∨ p.toNat = 2 ∨ p.toNat = 3 ↔ _
  omega

/-- What the contributor list of a column holds (46_compositor.md R725). -/
theorem mem_gbaContributors (en : BitVec 6) (spr : SprCol) (bg : Nat → BgCol) (w : Word) (c : Contributor) :
    c ∈ gbaContributors en spr bg w ↔ c = ⟨.bd, w, false⟩ ∨
      (c = ⟨.obj, spr.colour, spr.semi⟩ ∧ bit en 4 = true ∧ spr.colour ≠ 0 ∧ spr.prio.toNat ≤ 3) ∨
      ∃ b : Nat, b < 4 ∧ c = ⟨bgLayer b, (bg b).colour, false⟩ ∧ bit en b = true ∧ (bg b).colour ≠ 0 ∧
        (bg b).prio.toNat ≤ 3 := by
  unfold gbaContributors
  rw [List.mem_append, List.mem_singleton, List.mem_flatMap, or_comm]
  refine or_congr_right ⟨?_, ?_⟩
  · rintro ⟨p, hp, hc⟩
    rw [mem_classes_iff] at hp
    obtain ⟨rfl, en4, shown, rfl⟩ | ⟨b, hb, rfl, enb, shown, rfl⟩ := (mem_classContributors en spr bg p c).mp hc
    · exact Or.inl ⟨rfl, en4, shown, hp⟩
    · exact Or.inr ⟨b, hb, rfl, enb, shown, hp⟩
  · rintro (⟨rfl, en4, shown, hp⟩ | ⟨b, hb, rfl, enb, shown, hp⟩)
    · exact ⟨spr.prio, (mem_classes_iff _).mpr hp, (mem_classContributors ..).mpr (Or.inl ⟨rfl, en4, shown, rfl⟩)⟩
    · exact ⟨(bg b).prio, (mem_classes_iff _).mpr hp, (mem_classContributors ..).mpr (Or.inr ⟨b, hb, rfl, enb, shown, rfl⟩)⟩

/-! ### The composed line -/

/-- A framebuffer word after a row of `w` pixels is written (47_dispatch.md R808). -/
theorem writeRow_map_read (fb : Memory Word) (w y : Nat) (pixel : Nat → Word) (i : Nat) :
    Memory.read 0 (writeRow fb w y ((List.range w).map pixel)) i =
      if y * w ≤ i ∧ i < y * w + w then pixel (i - y * w) else Memory.read 0 fb i := by
  rw [writeRow_read fb w y _ (by simp) i]
  split
  · next h =>
    have inRow : i - y * w < w := by omega
    simp [inRow]
  · rfl

theorem writeRow_map_pixel (fb : Memory Word) {w x : Nat} (y : Nat) (pixel : Nat → Word) (hx : x < w) :
    Memory.read 0 (writeRow fb w y ((List.range w).map pixel)) (y * w + x) = pixel x := by
  rw [writeRow_map_read, if_pos (by omega), Nat.add_sub_cancel_left]

/-- A row leaves every other framebuffer word (47_dispatch.md R808). -/
theorem writeRow_map_outside (fb : Memory Word) {w y i : Nat} (pixel : Nat → Word) (hi : i < y * w ∨ y * w + w ≤ i) :
    Memory.read 0 (writeRow fb w y ((List.range w).map pixel)) i = Memory.read 0 fb i := by
  rw [writeRow_map_read, if_neg (by omega)]

theorem composeLine_pixel (s : State) (lb : LineBuffers) (y : Nat) {x : Nat} (hx : x < 240) :
    Memory.read 0 (writeRow s.fb Config.gbaW y (composeRow s lb y)) (y * 240 + x) = composePixel s lb y x :=
  writeRow_map_pixel s.fb y (composePixel s lb y) hx

theorem gbaContributors_ne_nil (en : BitVec 6) (spr : SprCol) (bg : Nat → BgCol) (w : Word) :
    gbaContributors en spr bg w ≠ [] := List.append_ne_nil_of_right_ne_nil _ (List.cons_ne_nil _ _)

theorem colourMath_off (bl : Blend) (top : Contributor) (bot : Option Contributor) :
    colourMath bl top bot false = opaquePixel top.colour := rfl

/-- Unless a semi-transparent sprite is in front of a contributor, the switch decides (46_compositor.md R731). -/
theorem blendOut_eq_effectOut {bl : Blend} {top : Contributor} {bot : Option Contributor}
    (h : ¬ (top.layer = .obj ∧ top.semi = true) ∨ bot = none) : blendOut bl top bot = effectOut bl top bot := by
  unfold blendOut
  obtain other | rfl := h
  · split
    · exact if_neg other
    · rfl
  · rfl

/-- The row that computes the colour math of a column whose effect is enabled (46_compositor.md R731). -/
def colourMathRow (cnt : Half) (top : Contributor) (bot : Option Contributor) : Instr :=
  match top.layer, top.semi, bot with
  | .obj, true, some bot => .semiForcedAlpha top.colour bot
  | _, _, bot => effectRow cnt top bot

theorem exec_colourMathRow (s : State) (top : Contributor) (bot : Option Contributor) :
    exec (colourMathRow s.bldcnt top bot) s =
      .next (s.give (.colour (colourMath (gbaBlend s s.bldcnt) top bot true))) := by
  have switch (h : ¬ (top.layer = .obj ∧ top.semi = true) ∨ bot = none) :
      exec (effectRow s.bldcnt top bot) s =
        .next (s.give (.colour (colourMath (gbaBlend s s.bldcnt) top bot true))) := by
    rw [exec_effectRow, ← blendOut_eq_effectOut h]
    rfl
  by_cases semi : top.layer = .obj ∧ top.semi = true
  · obtain ⟨layer, colour, flag⟩ := top
    obtain ⟨rfl, rfl⟩ : layer = .obj ∧ flag = true := semi
    cases bot with
    | none => exact switch (Or.inr rfl)
    | some u => rfl
  · have row : colourMathRow s.bldcnt top bot = effectRow s.bldcnt top bot := by
      unfold colourMathRow
      split
      · next layer flag => exact absurd ⟨layer, flag⟩ semi
      · rfl
    rw [row]
    exact switch (Or.inl semi)

/-- Settles O40: the list of each column, its order and its members, then its two front entries. -/
theorem composeLineWritesFrontTwo : Obligations.ComposeLineWritesFrontTwo := by
  intro y s _
  refine ⟨_, rfl, rfl, fun i hi => ?_, fun x hx => ?_⟩
  · exact writeRow_map_outside s.fb (composePixel s s.line y.toNat) hi
  · intro spr bg inFront
    have column : (BitVec.ofNat 8 x).toNat = x := Nat.mod_eq_of_lt (by omega)
    let en := gbaEnables s spr.objwin x y.toNat
    have order : (gbaContributors en spr bg s.backdrop).Pairwise inFront :=
      (gbaContributors_pairwise en spr bg s.backdrop).imp fun h => h
    refine ⟨en, gbaContributors en spr bg s.backdrop, ?_, order, mem_gbaContributors en spr bg s.backdrop, ?_⟩
    · show Host.Outcome.next (s.give (.enables (gbaEnables s (s.line.sprCol (BitVec.ofNat 8 x).toNat).objwin
        (BitVec.ofNat 8 x).toNat y.toNat))) = _
      rw [column]
      rfl
    · obtain ⟨top, rest, front⟩ := List.exists_cons_of_ne_nil (gbaContributors_ne_nil en spr bg s.backdrop)
      have pixel : composePixel s s.line y.toNat x = colourMath (gbaBlend s s.bldcnt) top rest.head? (bit en 5) := by
        show composeList (gbaBlend s s.bldcnt) en (gbaContributors en spr bg s.backdrop) = _
        rw [front]
        rfl
      have word := (composeLine_pixel s s.line y.toNat hx).trans pixel
      refine ⟨top, rest, front, fun off => ?_, fun on => ?_⟩
      · rw [off] at word
        exact word
      · rw [on] at word
        exact (exec_colourMathRow s top rest.head?).trans
          (congrArg (fun w => Host.Outcome.next (s.give (.colour w))) word.symm)

/-! ### A transparent column -/

theorem gbaContributors_transparent (en : BitVec 6) {spr : SprCol} {bg : Nat → BgCol} (w : Word) (hs : spr.colour = 0)
    (hb : ∀ b : Nat, b < 4 → (bg b).colour = 0) : gbaContributors en spr bg w = [⟨.bd, w, false⟩] := by
  have none (p : Byte) : classContributors en spr bg p = [] := by
    refine List.eq_nil_iff_forall_not_mem.mpr fun c hc => ?_
    obtain ⟨_, _, shown, _⟩ | ⟨b, h4, _, _, shown, _⟩ := (mem_classContributors en spr bg p c).mp hc
    · exact shown hs
    · exact shown (hb b h4)
  unfold gbaContributors
  simp only [none, List.flatMap_cons, List.flatMap_nil, List.append_nil, List.nil_append]

/-- Each channel that the switch gives when nothing is below the top layer (46_compositor.md R731). -/
theorem effectOut_none_channel {bl : Blend} (top : Contributor) (h : bl.evy ≤ 16) {k : Nat} (hk : k < 3) :
    bitsN (effectOut bl top none) (8 * k) 8 =
      if inSet bl.first top.layer = true ∧ bl.effect.toNat = 2 then brightenChannel bl.evy (bitsN top.colour (8 * k) 8)
      else if inSet bl.first top.layer = true ∧ bl.effect.toNat = 3 then darkenChannel bl.evy (bitsN top.colour (8 * k) 8)
      else bitsN top.colour (8 * k) 8 := by
  have lt : bl.effect.toNat < 4 := bl.effect.isLt
  unfold effectOut
  obtain e | e | e | e : bl.effect.toNat = 0 ∨ bl.effect.toNat = 1 ∨ bl.effect.toNat = 2 ∨ bl.effect.toNat = 3 := by omega
  · simp [e, effectNoneOut]
  · simp [e, effectAlphaOut, secondTarget]
  · simp [e, effectBrightenOut_channel top h hk]
  · simp [e, effectDarkenOut_channel bl top hk]

/-- Settles O41: the backdrop is alone in the list, so only its own channels are moved. -/
theorem transparentColumnShowsBackdrop : Obligations.TransparentColumnShowsBackdrop := by
  intro x y s hx _ spr bg bd cnt evy
  let bl := gbaBlend s s.bldcnt
  let en := gbaEnables s (s.line.sprCol x.toNat).objwin x.toNat y.toNat
  have pixel : composePixel s s.line y.toNat x.toNat = colourMath bl ⟨.bd, bd, false⟩ none (bit en 5) := by
    show composeList bl en (gbaContributors en (s.line.sprCol x.toNat) (fun b => s.line.bgCol b x.toNat) s.backdrop) = _
    rw [gbaContributors_transparent en s.backdrop spr bg]
    rfl
  have word := (composeLine_pixel s s.line y.toNat hx).trans pixel
  refine ⟨_, en, rfl, rfl, (congrArg (bitsN · 24 8) word).trans (opaquePixel_alpha _), fun k hk => ?_⟩
  refine (congrArg (bitsN · (8 * k) 8) word).trans ((opaquePixel_channel _ k hk).trans ?_)
  have first : inSet bl.first .bd = bit cnt 5 := inSet_first cnt .bd
  cases on : bit en 5 with
  | false => simp
  | true =>
    have moved := effectOut_none_channel (bl := bl) ⟨.bd, bd, false⟩ (gbaBlend_evy_le s s.bldcnt) hk
    simp only [first] at moved
    simp only [true_and]
    exact moved

end Sys2Proof.Machine
end

section
/-! Frames: the dispatch, the forced blank, and the frames of modes 1 and 2 as the operations of their lines. -/

namespace Sys2Proof.Machine

open Sys2Proof

/-! ### Dispatch and forced blank -/

/-- Settles O42: each mode's arm of `render_frame`. -/
theorem renderFrameDispatch : Obligations.RenderFrameDispatch := by
  refine ⟨fun s => ⟨s.render, rfl, fun h => ?_, fun h => ?_, fun h => ?_, fun h => ?_, fun h => ?_⟩, fun _ _ => rfl⟩ <;>
    unfold State.render
  · rw [h]
    rfl
  · rw [h]
    rfl
  · rw [h]
    rfl
  · rw [h]
    rfl
  · simp only [List.mem_cons, List.not_mem_nil, or_false, not_or] at h
    obtain ⟨h0, h1, h2, h7⟩ := h
    split
    · next e => exact absurd e h0
    · next e => exact absurd e h1
    · next e => exact absurd e h2
    · next e => exact absurd e h7
    · rfl

theorem exec_forcedBlankMode0 (s : State) :
    exec .forcedBlankMode0 s = .next (if s.m0.g.forcedBlank then s.forcedBlankFill else s) := rfl

/-- Settles O43: every row runs the same fill, mode 0 under its field. -/
theorem forcedBlankFillsAll : Obligations.ForcedBlankFillsAll := by
  intro s
  refine ⟨s.forcedBlankFill, rfl, fun i hi => ?_, fun i hi => ?_, rfl, fun _ _ => rfl, fun _ _ => rfl, fun h => ?_, fun h => ?_⟩
  · exact (forcedBlankFill_fbWord s i).trans (if_pos hi)
  · exact (forcedBlankFill_fbWord s i).trans (if_neg (Nat.not_lt.mpr hi))
  · rw [exec_forcedBlankMode0, h]
    rfl
  · rw [exec_forcedBlankMode0, h]
    rfl

theorem renderGba_blank {s : State} (mixed : Bool) (h : s.forcedBlankGba = true) : s.renderGba mixed = s.forcedBlankFill :=
  if_pos h

theorem renderGba_shown {s : State} (mixed : Bool) (h : s.forcedBlankGba = false) :
    s.renderGba mixed = s.withFrame Config.gbaW Config.gbaH (gbaRow s mixed) := by
  unfold State.renderGba
  rw [h]
  rfl

theorem renderDmg_blank {s : State} (h : lcdOn s.lcdc = false) : s.renderDmg = s.forcedBlankFill := by
  unfold State.renderDmg
  rw [h]
  rfl

theorem renderDmg_shown {s : State} (h : lcdOn s.lcdc = true) :
    s.renderDmg = s.withFrame Config.dmgW Config.dmgH (dmgRow s) := if_pos h

theorem renderMode0_blank {s : State} (h : s.m0.g.forcedBlank = true) : s.renderMode0 = s.forcedBlankFill := if_pos h

/-- Settles O44: each pipeline under its own condition. -/
theorem forcedBlankFrames : Obligations.ForcedBlankFrames := by
  intro s
  refine ⟨s.forcedBlankFill, rfl, fun h => ⟨?_, ?_⟩, fun h => ?_, fun h => ?_⟩
  · exact congrArg Host.Outcome.next (renderGba_blank false h)
  · exact congrArg Host.Outcome.next (renderGba_blank true h)
  · exact congrArg Host.Outcome.next (renderDmg_blank h)
  · exact congrArg Host.Outcome.next (renderMode0_blank h)

/-! ### A rendered frame -/

/-- A frame leaves every word past its rectangle (47_dispatch.md R808). -/
theorem withFrame_outside (s : State) {w h : Nat} {row : Nat → List Word} (hl : ∀ y, (row y).length = w) {i : Nat}
    (hi : h * w ≤ i) : (s.withFrame w h row).fbWord i = s.fbWord i := by
  rw [withFrame_fbWord s w h row fun y _ => hl y, if_neg (by omega)]

/-- A frame whose rows are given word by word (47_dispatch.md R808). -/
theorem withFrame_pixel (s : State) {w h : Nat} (pixel : Nat → Nat → Word) {x y : Nat} (hx : x < w) (hy : y < h) :
    (s.withFrame w h fun y => (List.range w).map (pixel y)).fbWord (y * w + x) = pixel y x := by
  refine (writeFrame_pixel s.fb w h _ (fun _ _ => by simp) x y hx hy).trans ?_
  simp [hx]

/-! ### The operations of a line -/

/-- The state with these line buffers. -/
def State.withLine (s : State) (lb : LineBuffers) : State := { s with line := lb }

theorem State.withLine_cleared (s : State) : s.withLine LineBuffers.cleared = s.clearLine := rfl

/-- The line buffers after the lines of the backgrounds of a list are drawn. -/
def drawBgs (m : Nat → Memory BgCol) (l : List Nat) (lb : LineBuffers) : LineBuffers :=
  l.foldl (fun lb b => lb.setBg b (m b)) lb

theorem drawBgs_spr (m : Nat → Memory BgCol) (l : List Nat) (lb : LineBuffers) : (drawBgs m l lb).spr = lb.spr := by
  unfold drawBgs
  induction l generalizing lb with
  | nil => rfl
  | cons b l ih => exact (ih _).trans (LineBuffers.setBg_spr lb b (m b))

theorem drawBgs_bg (m : Nat → Memory BgCol) {l : List Nat} (hl : ∀ b ∈ l, b < 4) (lb : LineBuffers) {c : Nat} (hc : c < 4) :
    (drawBgs m l lb).bg c = if c ∈ l then m c else lb.bg c := by
  unfold drawBgs
  induction l generalizing lb with
  | nil => rfl
  | cons b l ih =>
    rw [List.foldl_cons, ih (fun i hi => hl i (List.mem_cons_of_mem _ hi)),
      LineBuffers.bg_setBg lb b c (m b) (hl b List.mem_cons_self) hc]
    by_cases e : c = b
    · subst e
      simp
    · simp [e]

/-- The instructions that draw backgrounds run one after the other. -/
theorem execAll_bgs {s : State} {draw : Nat → Instr} {m : Nat → Memory BgCol} {l : List Nat}
    (h : ∀ b ∈ l, ∀ lb, exec (draw b) (s.withLine lb) = .next (s.withLine (lb.setBg b (m b)))) (rest : List Instr)
    (lb : LineBuffers) : execAll (l.map draw ++ rest) (s.withLine lb) = execAll rest (s.withLine (drawBgs m l lb)) := by
  induction l generalizing lb with
  | nil => rfl
  | cons b l ih =>
    rw [List.map_cons, List.cons_append, execAll, h b List.mem_cons_self]
    exact ih (fun i hi => h i (List.mem_cons_of_mem _ hi)) _

/-- The line buffers after the backgrounds of a list and the sprites are drawn over line buffers just created. -/
theorem drawBgs_eq {m : Nat → Memory BgCol} {l : List Nat} (hl : ∀ b ∈ l, b < 4) {lines : LineBuffers}
    (hm : ∀ c, c < 4 → lines.bg c = if c ∈ l then m c else []) :
    { drawBgs m l LineBuffers.cleared with spr := lines.spr } = lines := by
  refine LineBuffers.ext_bg _ _ (fun c hc => ?_) rfl
  rw [LineBuffers.setSpr_bg, drawBgs_bg m hl _ hc, hm c hc, LineBuffers.cleared_bg]

/-! ### A line of modes 1 and 2 -/

theorem toNat_ofNat8 {k : Nat} (h : k < 256) : (BitVec.ofNat 8 k).toNat = k := Nat.mod_eq_of_lt h

theorem exec_textBgLine_withLine (s : State) (lb : LineBuffers) {b y : Nat} (hb : b < 4) (hy : y < 160) :
    exec (.textBgLine (BitVec.ofNat 8 b) (BitVec.ofNat 8 y)) (s.withLine lb) =
      .next (s.withLine (lb.setBg b (bgBuffer Config.gbaW (textBgPixel s b y)))) := by
  have run (b y : Byte) : exec (.textBgLine b y) (s.withLine lb) =
      .next (s.withLine (lb.setBg b.toNat (bgBuffer Config.gbaW (textBgPixel s b.toNat y.toNat)))) := rfl
  rw [run, toNat_ofNat8 (by omega), toNat_ofNat8 (by omega)]

theorem exec_affineInstr_withLine (s : State) (lb : LineBuffers) {y : Nat} (hy : y < 160) :
    exec (s.affineInstr (BitVec.ofNat 8 y)) (s.withLine lb) =
      .next (s.withLine (lb.setBg 2 (bgBuffer Config.gbaW (affineBgPixel s 2 y)))) := by
  have run (y : Byte) : exec (s.affineInstr y) (s.withLine lb) =
      .next (s.withLine (lb.setBg 2 (affineBgBuffer s (s.bgCnt 2) (bit (s.bgCnt 2) 13) 2 y.toNat))) := by
    unfold State.affineInstr
    have wrap : bit (s.readU16 .io 0x0C) 13 = bit (s.bgCnt 2) 13 := rfl
    dsimp only
    rw [wrap]
    cases bit (s.bgCnt 2) 13 <;> rfl
  rw [run, toNat_ofNat8 (by omega)]
  rfl

/-- The last two operations of a line: the sprites, then the composition (47_dispatch.md R805). -/
theorem execAll_gbaLineEnd (s : State) (lb : LineBuffers) {y : Nat} (hy : y < 160) :
    execAll [.spriteLine (BitVec.ofNat 8 y), .composeLine (BitVec.ofNat 8 y)] (s.withLine lb) =
      (let lines := { lb with spr := sprBuffer Config.gbaW (spritePixel s y) }
      .next { s with line := lines, fb := writeRow s.fb Config.gbaW y (composeRow s lines y) }) := by
  have run (y : Byte) : execAll [.spriteLine y, .composeLine y] (s.withLine lb) =
      (let lines := { lb with spr := sprBuffer Config.gbaW (spritePixel s y.toNat) }
      .next { s with line := lines, fb := writeRow s.fb Config.gbaW y.toNat (composeRow s lines y.toNat) }) := rfl
  rw [run, toNat_ofNat8 (by omega)]

/-- The backgrounds of a frame of mode 2: BG0 and BG1 text, BG2 affine (47_dispatch.md R806). -/
def gbaMixedInstr (s : State) (y b : Nat) : Instr :=
  if b = 2 then s.affineInstr (BitVec.ofNat 8 y) else .textBgLine (BitVec.ofNat 8 b) (BitVec.ofNat 8 y)

/-- The backgrounds that a frame of mode 1 or 2 draws (47_dispatch.md R805, R806). -/
def gbaDrawn (s : State) (mixed : Bool) : List Nat :=
  (List.range (if mixed then 3 else 4)).filter fun b => s.bgOn b

theorem mem_gbaDrawn (s : State) (mixed : Bool) (b : Nat) :
    b ∈ gbaDrawn s mixed ↔ b < (if mixed then 3 else 4) ∧ s.bgOn b = true := by
  unfold gbaDrawn
  rw [List.mem_filter, List.mem_range]

theorem gbaDrawn_lt {s : State} {mixed : Bool} {b : Nat} (h : b ∈ gbaDrawn s mixed) : b < 4 := by
  have := ((mem_gbaDrawn s mixed b).mp h).1
  split at this <;> omega

/-- The line buffers of a frame's line: a background that is not drawn stays as just created. -/
theorem gbaLines_bg (s : State) (mixed : Bool) (y : Nat) {c : Nat} (hc : c < 4) :
    (gbaLines s mixed y).bg c =
      if c ∈ gbaDrawn s mixed then bgBuffer Config.gbaW (gbaBgPixel s mixed c y) else [] := by
  have lines : (gbaLines s mixed y).bg c = bgBuffer Config.gbaW (gbaBgPixel s mixed c y) := by
    obtain rfl | rfl | rfl | rfl : c = 0 ∨ c = 1 ∨ c = 2 ∨ c = 3 := by omega
    all_goals rfl
  split
  · exact lines
  · next notDrawn =>
    have transparent : gbaBgPixel s mixed c y = fun _ => BgCol.transparent := by
      funext x
      unfold gbaBgPixel
      rw [mem_gbaDrawn] at notDrawn
      cases on : s.bgOn c with
      | false => rfl
      | true =>
        cases mixed with
        | false => exact absurd ⟨hc, on⟩ notDrawn
        | true =>
          have three : ¬ c < 3 := fun h => notDrawn ⟨h, on⟩
          obtain rfl : c = 3 := by omega
          rfl
    rw [lines, transparent, bgBuffer_transparent]

/-- A line of a frame of mode 1 or 2, its operations given, writes the words of the frame's row. -/
theorem execAll_gbaLine {s : State} {mixed : Bool} {y : Nat} (hy : y < 160) {draw : Nat → Instr}
    (h : ∀ b ∈ gbaDrawn s mixed, ∀ lb, exec (draw b) (s.withLine lb) =
      .next (s.withLine (lb.setBg b (bgBuffer Config.gbaW (gbaBgPixel s mixed b y))))) :
    ∃ u : State, execAll ((gbaDrawn s mixed).map draw ++ [.spriteLine (BitVec.ofNat 8 y), .composeLine (BitVec.ofNat 8 y)])
        s.clearLine = .next u ∧
      ∀ x : Nat, x < 240 → u.fbWord (y * 240 + x) = composePixel s (gbaLines s mixed y) y x := by
  rw [← State.withLine_cleared, execAll_bgs h, execAll_gbaLineEnd s _ hy]
  have lines := drawBgs_eq (m := fun b => bgBuffer Config.gbaW (gbaBgPixel s mixed b y)) (fun b hb => gbaDrawn_lt hb)
    (fun c hc => gbaLines_bg s mixed y hc)
  refine ⟨_, rfl, fun x hx => ?_⟩
  refine (composeLine_pixel s _ y hx).trans ?_
  rw [← lines]
  rfl

/-- A frame of mode 1 or 2 whose lines' operations write the words of its rows. -/
theorem gbaFrame {s : State} {mixed : Bool} {line : Nat → List Instr} (shown : s.forcedBlankGba = false)
    (h : ∀ y, y < 160 → ∃ u : State, execAll (line y) s.clearLine = .next u ∧
      ∀ x : Nat, x < 240 → u.fbWord (y * 240 + x) = composePixel s (gbaLines s mixed y) y x) :
    ∃ t : State, (.next (s.renderGba mixed) : Answer) = .next t ∧ t = { s with fb := t.fb, line := t.line } ∧
      (∀ i : Nat, 38400 ≤ i → t.fbWord i = s.fbWord i) ∧
      ∀ y : Nat, y < 160 → ∃ u : State, execAll (line y) s.clearLine = .next u ∧
        ∀ x : Nat, x < 240 → t.fbWord (y * 240 + x) = u.fbWord (y * 240 + x) := by
  refine ⟨_, congrArg Host.Outcome.next (renderGba_shown mixed shown), rfl, fun i hi => ?_, fun y hy => ?_⟩
  · exact withFrame_outside s (fun y => composeRow_length s (gbaLines s mixed y) y) hi
  · obtain ⟨u, run, words⟩ := h y hy
    refine ⟨u, run, fun x hx => Eq.trans ?_ (words x hx).symm⟩
    exact withFrame_pixel s (fun y => composePixel s (gbaLines s mixed y) y) hx hy

/-- The operations of a line of mode 1 draw the backgrounds that are on. -/
theorem gbaTextLine_eq (s : State) (y : Nat) : s.gbaTextLine y =
    (gbaDrawn s false).map (fun b => .textBgLine (BitVec.ofNat 8 b) (BitVec.ofNat 8 y)) ++
      [.spriteLine (BitVec.ofNat 8 y), .composeLine (BitVec.ofNat 8 y)] := rfl

/-- Settles O45: the backgrounds that are on, all of them text. -/
theorem gbaTextFrame : Obligations.GbaTextFrame := by
  intro s shown
  refine gbaFrame (mixed := false) shown fun y hy => ?_
  rw [gbaTextLine_eq]
  refine execAll_gbaLine hy fun b hb lb => ?_
  obtain ⟨b4, on⟩ := (mem_gbaDrawn s false b).mp hb
  have text : gbaBgPixel s false b y = textBgPixel s b y := by
    funext x
    unfold gbaBgPixel
    rw [on]
    rfl
  rw [text]
  exact exec_textBgLine_withLine s lb b4 hy

/-- The operations of a line of mode 2 draw BG0, BG1 and BG2, in this order. -/
theorem gbaMixedLine_eq (s : State) (y : Nat) : s.gbaMixedLine y =
    (gbaDrawn s true).map (gbaMixedInstr s y) ++ [.spriteLine (BitVec.ofNat 8 y), .composeLine (BitVec.ofNat 8 y)] := by
  have drawn : gbaDrawn s true =
      ((List.range 2).filter fun b => bit (s.readU16 .io 0) (8 + b)) ++ if bit (s.readU16 .io 0) 10 then [2] else [] := by
    show (List.range (2 + 1)).filter (fun b => s.bgOn b) = _
    rw [List.range_succ, List.filter_append]
    congr 1
    show List.filter _ [2] = if s.bgOn 2 then [2] else []
    rw [List.filter_cons]
    rfl
  have text : ((List.range 2).filter fun b => bit (s.readU16 .io 0) (8 + b)).map (gbaMixedInstr s y) =
      ((List.range 2).filter fun b => bit (s.readU16 .io 0) (8 + b)).map
        (fun b => .textBgLine (BitVec.ofNat 8 b) (BitVec.ofNat 8 y)) := by
    refine List.map_congr_left fun b hb => if_neg ?_
    have := List.mem_range.mp (List.mem_filter.mp hb).1
    omega
  unfold State.gbaMixedLine
  rw [drawn, List.map_append, text]
  congr 2
  split <;> rfl

/-- Settles O46: BG0 and BG1 text, BG2 by its WRAP row, BG3 never. -/
theorem gbaMixedFrame : Obligations.GbaMixedFrame := by
  intro s shown
  refine gbaFrame (mixed := true) shown fun y hy => ?_
  rw [gbaMixedLine_eq]
  refine execAll_gbaLine hy fun b hb lb => ?_
  obtain ⟨b3, on⟩ := (mem_gbaDrawn s true b).mp hb
  replace b3 : b < 3 := b3
  unfold gbaMixedInstr
  by_cases two : b = 2
  · subst two
    have affine : gbaBgPixel s true 2 y = affineBgPixel s 2 y := by
      funext x
      unfold gbaBgPixel
      rw [on]
      rfl
    rw [if_pos rfl, affine]
    exact exec_affineInstr_withLine s lb hy
  · have text : gbaBgPixel s true b y = textBgPixel s b y := by
      funext x
      unfold gbaBgPixel
      simp [on, two, Nat.ne_of_lt b3]
    rw [if_neg two, text]
    exact exec_textBgLine_withLine s lb (by omega) hy

end Sys2Proof.Machine
end

section
/-! Mode 7: tile addresses, sprite entries, the selection of a line's sprites, pixels and frames. -/

namespace Sys2Proof.Machine

open Sys2Proof

/-! ### Tile addresses and sprite rows -/

/-- Settles O51: the rows' addresses and fields. -/
theorem dmgTileAndObjectRows : Obligations.DmgTileAndObjectRows := by
  constructor
  · intro w t s signed
    have value : sext8 t = signed := by
      show t.toInt = if t.toNat < 128 then (t.toNat : Int) else (t.toNat : Int) - 256
      rw [BitVec.toInt_eq_toNat_cond]
      split <;> split <;> omega
    refine ⟨rfl, ?_⟩
    rw [← value]
    rfl
  · intro w i s reg sy sxs
    exact ⟨rfl, rfl⟩

/-! ### Sprite entries -/

theorem exec_dmgSpriteEntry (b0 b1 b2 b3 x y : Byte) (s : State) :
    exec (.dmgSpriteEntry b0 b1 b2 b3 x y) s = .next (s.give (.indexIfCovered
      (dmgSpriteIndex s (dmgHeight (lcdObj16 s.lcdc)) (dmgSpriteOf b0 b1 b2 b3) x.toNat y.toNat))) := rfl

/-- A tile number with its lowest bit cleared (48_dmg.md R857). -/
theorem evenTile_toNat (t : Byte) : (t &&& 0xFE).toNat = t.toNat / 2 * 2 := by
  revert t
  decide

theorem dmgHeight_eq_sixteen (b : Bool) : dmgHeight b = 16 ↔ b = true := by cases b <;> decide

/-- Settles O49: the covered rectangle, then the flips, then the tile's row. -/
theorem dmgSpriteEntryIndex : Obligations.DmgSpriteEntryIndex := by
  intro b0 b1 b2 b3 x y s sy sxs hgt row col tile lo hi k index
  have height : dmgHeight (lcdObj16 s.lcdc) = hgt := rfl
  have tiles : (if hgt = 16 then ((b2 &&& 0xFE).toNat : Int) + row / 8 else b2.toNat) = tile := by
    rw [evenTile_toNat]
    exact if_congr (dmgHeight_eq_sixteen (lcdObj16 s.lcdc)) rfl rfl
  have texel : decDmg s.dvram8 (tile * 16) col (row % 8) = BitVec.ofNat 8 (2 * bitsN hi k 1 + bitsN lo k 1) :=
    decDmg_eq_ofNat s.dvram8 (tile * 16) col (row % 8)
  have covered : ((dmgSpriteOf b0 b1 b2 b3).covers hgt y.toNat = true ∧ sxs ≤ x.toNat ∧ (x.toNat : Int) < sxs + 8) ↔
      (sy ≤ y.toNat ∧ (y.toNat : Int) < sy + hgt ∧ sxs ≤ x.toNat ∧ (x.toNat : Int) < sxs + 8) := by
    rw [DmgSprite.covers, decide_eq_true_iff, and_assoc]
    exact Iff.rfl
  have entry : dmgSpriteIndex s hgt (dmgSpriteOf b0 b1 b2 b3) x.toNat y.toNat = index := by
    refine if_congr covered (congrArg some ?_) rfl
    exact (congrArg (fun t => decDmg s.dvram8 (t * 16) col (row % 8)) tiles).trans texel
  rw [exec_dmgSpriteEntry, height, entry]
  rfl

/-! ### Sorting by insertion -/

section
variable {α : Type} {insert : α → List α → List α}

/-- Entries put one after the other into a list are the list and the entries. -/
theorem foldl_insert_perm (perm : ∀ a l, (insert a l).Perm (a :: l)) (l acc : List α) :
    (l.foldl (fun acc a => insert a acc) acc).Perm (acc ++ l) := by
  induction l generalizing acc with
  | nil => exact (List.append_nil acc).symm ▸ List.Perm.refl _
  | cons a l ih => exact (ih _).trans (((perm a acc).append_right l).trans List.perm_middle.symm)

/-- Entries related by `S` to those after them, put one after the other into a list ordered by `R`, keep it ordered. -/
theorem foldl_insert_pairwise {R S : α → α → Prop} (perm : ∀ a l, (insert a l).Perm (a :: l))
    (keeps : ∀ {a l}, l.Pairwise R → (∀ b ∈ l, S b a) → (insert a l).Pairwise R) {l acc : List α} (hl : l.Pairwise S)
    (hacc : acc.Pairwise R) (before : ∀ b ∈ acc, ∀ a ∈ l, S b a) :
    (l.foldl (fun acc a => insert a acc) acc).Pairwise R := by
  induction l generalizing acc with
  | nil => exact hacc
  | cons a l ih =>
    obtain ⟨first, rest⟩ := List.pairwise_cons.mp hl
    refine ih rest (keeps hacc fun b hb => before b hb a List.mem_cons_self) fun b hb c hc => ?_
    obtain rfl | hb := List.mem_cons.mp ((perm a acc).mem_iff.mp hb)
    · exact first c hc
    · exact before b hb c (List.mem_cons_of_mem _ hc)

end

/-! ### The sprites of a line -/

theorem insertByKey_perm (key : Nat → Int) (i : Nat) (l : List Nat) : (insertByKey key i l).Perm (i :: l) := by
  induction l with
  | nil => exact List.Perm.refl _
  | cons j l ih =>
    unfold insertByKey
    split
    · exact (ih.cons j).trans (List.Perm.swap i j l)
    · exact List.Perm.refl _

theorem sortByKey_perm (key : Nat → Int) (l : List Nat) : (sortByKey key l).Perm l :=
  foldl_insert_perm (insertByKey_perm key) l []

/-- Ascending keys, entries of one key by their number (48_dmg.md R856). -/
def keyThenIndex (key : Nat → Int) (i j : Nat) : Prop := key i < key j ∨ (key i = key j ∧ i < j)

/-- An entry put into an ordered list of smaller entries keeps it ordered. -/
theorem insertByKey_pairwise {key : Nat → Int} {i : Nat} {l : List Nat} (hl : l.Pairwise (keyThenIndex key))
    (lt : ∀ j ∈ l, j < i) : (insertByKey key i l).Pairwise (keyThenIndex key) := by
  induction l with
  | nil => exact List.pairwise_singleton _ _
  | cons j l ih =>
    obtain ⟨first, rest⟩ := List.pairwise_cons.mp hl
    unfold insertByKey
    split
    · next le =>
      refine List.pairwise_cons.mpr ⟨fun k hk => ?_, ih rest fun k hk => lt k (List.mem_cons_of_mem _ hk)⟩
      obtain rfl | hk := List.mem_cons.mp ((insertByKey_perm key i l).mem_iff.mp hk)
      · have := lt j List.mem_cons_self
        unfold keyThenIndex
        omega
      · exact first k hk
    · next gt =>
      refine List.pairwise_cons.mpr ⟨fun k hk => Or.inl ?_, hl⟩
      obtain rfl | hk := List.mem_cons.mp hk
      · omega
      · have := first k hk
        unfold keyThenIndex at this
        omega

/-- Sorting a list of rising entries orders it by key, then by entry. -/
theorem sortByKey_pairwise {key : Nat → Int} {l : List Nat} (hl : l.Pairwise (· < ·)) :
    (sortByKey key l).Pairwise (keyThenIndex key) :=
  foldl_insert_pairwise (insertByKey_perm key) insertByKey_pairwise hl List.Pairwise.nil
    fun _ hj => absurd hj List.not_mem_nil

/-- The first ten entries that cover a line, in table order (48_dmg.md R856). -/
def coveringSprites (s : State) (y : Nat) : List Nat :=
  ((List.range Config.dmgSprites).filter fun i => (s.dmgSprite i).covers (dmgHeight (lcdObj16 s.lcdc)) y).take
    Config.dmgSpritesPerLine

theorem selectSprites_off {s : State} (h : lcdObjOn s.lcdc = false) (y : Nat) : selectSprites s y = [] := by
  unfold selectSprites
  rw [h]
  rfl

theorem selectSprites_on {s : State} (h : lcdObjOn s.lcdc = true) (y : Nat) :
    selectSprites s y = sortByKey (fun i => (s.dmgSprite i).sxs) (coveringSprites s y) := if_pos h

/-- Settles O48: the covering entries are taken in table order, then sorted by X. -/
theorem dmgSpriteSelection : Obligations.DmgSpriteSelection := by
  intro s y _ lcdc hgt sy sxs firstTen
  refine ⟨fun off => selectSprites_off off y, fun on => ?_⟩
  rw [selectSprites_on on]
  have rising : (coveringSprites s y).Pairwise (· < ·) :=
    (List.pairwise_lt_range.filter _).sublist (List.take_sublist _ _)
  exact ⟨sortByKey_perm _ _, sortByKey_pairwise rising⟩

/-- Only entries of the table are selected. -/
theorem selectSprites_lt {s : State} {y i : Nat} (h : i ∈ selectSprites s y) : i < 40 := by
  cases on : lcdObjOn s.lcdc with
  | false =>
    rw [selectSprites_off on] at h
    exact absurd h List.not_mem_nil
  | true =>
    rw [selectSprites_on on, (sortByKey_perm _ _).mem_iff] at h
    exact List.mem_range.mp (List.mem_filter.mp (List.mem_of_mem_take h)).1

/-! ### Frames of mode 7 -/

theorem exec_dmgPixel (x y : Byte) (sel : List Byte) (s : State) :
    exec (.dmgPixel x y sel) s = .next (s.give (.colour (dmgPixel s x.toNat y.toNat (sel.map BitVec.toNat)))) := rfl

/-- Settles O47: each word of the frame is DMG_PIXEL's under the line's selection. -/
theorem dmgFrame : Obligations.DmgFrame := by
  intro s on
  refine ⟨_, congrArg Host.Outcome.next (renderDmg_shown on), rfl, fun i hi => ?_, fun x y hx hy => ?_⟩
  · exact withFrame_outside s (dmgRow_length s) hi
  · have entries : ((selectSprites s y).map (BitVec.ofNat 8)).map BitVec.toNat = selectSprites s y := by
      rw [List.map_map]
      refine (List.map_congr_left fun i hi => ?_).trans (List.map_id _)
      exact toNat_ofNat8 (Nat.lt_trans (selectSprites_lt hi) (by decide))
    have word : (s.withFrame Config.dmgW Config.dmgH (dmgRow s)).fbWord (y * 160 + x) = dmgPixel s x y (selectSprites s y) :=
      withFrame_pixel s (fun y x => dmgPixel s x y (selectSprites s y)) hx hy
    rw [exec_dmgPixel, entries, toNat_ofNat8 (by omega), toNat_ofNat8 (by omega), word]
    rfl

/-! ### Pixels of mode 7 -/

/-- A pixel of the tile map at natural-number coordinates (48_dmg.md R853, R854). -/
theorem mapPixel_toNat (s : State) (map mx my : Nat) :
    (dmgBgIndex.mapPixel s map mx my).toNat =
      (let reg := fun o : Int => s.readU8 .vramDmg o
      let tile := reg ((map + my / 8 * 32 + mx / 8 : Nat) : Int)
      let ta : Int := if bit (reg 0x20A0) 4 then (tile.toNat : Int) * 16 else 0x1000 + tile.toInt * 16
      let plane := fun j : Nat => bitsN (reg (ta + (2 * (my % 8) + j : Nat))) (7 - mx % 8) 1
      2 * plane 1 + plane 0) := by
  extract_lets reg tile ta plane
  have place : (map : Int) + (my : Int) / 8 * 32 + (mx : Int) / 8 = ((map + my / 8 * 32 + mx / 8 : Nat) : Int) := by omega
  have column : (7 - (mx : Int) % 8).toNat = 7 - mx % 8 := by omega
  have row1 : ta + 2 * ((my : Int) % 8) + 1 = ta + (2 * (my % 8) + 1 : Nat) := by omega
  have row0 : ta + 2 * ((my : Int) % 8) = ta + (2 * (my % 8) + 0 : Nat) := by omega
  have pixel : dmgBgIndex.mapPixel s map mx my = decDmg s.dvram8 ta ((mx : Int) % 8) ((my : Int) % 8) := by
    unfold dmgBgIndex.mapPixel
    rw [place]
    rfl
  have small (b : Byte) (k : Nat) : bitsN b k 1 < 2 := bitsN_lt b k 1
  rw [pixel, decDmg_eq_ofNat, column, row1, row0]
  have h1 := small (s.dvram8 (ta + (2 * (my % 8) + 1 : Nat))) (7 - mx % 8)
  have h0 := small (s.dvram8 (ta + (2 * (my % 8) + 0 : Nat))) (7 - mx % 8)
  exact toNat_ofNat8 (by omega)

/-- The map and the point of it that pixel (x, y) shows: the window's where it is there, else the scrolled background's
(48_dmg.md R854). -/
theorem dmgBgIndex_eq (s : State) (x y : Nat) :
    dmgBgIndex s x y =
      (let reg := fun o : Int => s.readU8 .vramDmg o
      let window := bit (reg 0x20A0) 5 = true ∧ (reg 0x20A6).toNat ≤ y ∧ (reg 0x20A7).toNat ≤ x + 7
      let mx : Nat := if window then x + 7 - (reg 0x20A7).toNat else (x + (reg 0x20A2).toNat) % 256
      let my : Nat := if window then y - (reg 0x20A6).toNat else (y + (reg 0x20A1).toNat) % 256
      let map : Nat := if (if window then bit (reg 0x20A0) 6 else bit (reg 0x20A0) 3) then 0x1C00 else 0x1800
      if bit (reg 0x20A0) 0 then dmgBgIndex.mapPixel s map mx my else 0) := by
  extract_lets reg window mx my map
  have inWindow : (lcdWinOn s.lcdc = true ∧ (s.wy.toNat : Int) ≤ y ∧ (s.wx.toNat : Int) ≤ (x : Int) + 7) ↔ window := by
    refine and_congr Iff.rfl (and_congr Int.ofNat_le ?_)
    exact (Int.ofNat_le (n := x + 7))
  unfold dmgBgIndex
  refine if_congr Iff.rfl ?_ rfl
  by_cases w : window
  · rw [if_pos (inWindow.mpr w)]
    have mapAt : map = if bit (reg 0x20A0) 6 then 0x1C00 else 0x1800 := by simp only [map, if_pos w]
    have xAt : (x : Int) + 7 - s.wx.toNat = (mx : Int) := by
      have : mx = x + 7 - (reg 0x20A7).toNat := if_pos w
      have : (reg 0x20A7).toNat ≤ x + 7 := w.2.2
      show (x : Int) + 7 - ((reg 0x20A7).toNat : Int) = mx
      omega
    have yAt : (y : Int) - s.wy.toNat = (my : Int) := by
      have : my = y - (reg 0x20A6).toNat := if_pos w
      have : (reg 0x20A6).toNat ≤ y := w.2.1
      show (y : Int) - ((reg 0x20A6).toNat : Int) = my
      omega
    rw [xAt, yAt, mapAt]
    congr 1
    exact (apply_ite Nat.cast _ _ _).symm
  · rw [if_neg (mt inWindow.mp w)]
    have mapAt : map = if bit (reg 0x20A0) 3 then 0x1C00 else 0x1800 := by simp only [map, if_neg w]
    have xAt : ((x : Int) + s.scx.toNat) % 256 = (mx : Int) := by
      have : mx = (x + (reg 0x20A2).toNat) % 256 := if_neg w
      show ((x : Int) + ((reg 0x20A2).toNat : Int)) % 256 = mx
      omega
    have yAt : ((y : Int) + s.scy.toNat) % 256 = (my : Int) := by
      have : my = (y + (reg 0x20A1).toNat) % 256 := if_neg w
      show ((y : Int) + ((reg 0x20A1).toNat : Int)) % 256 = my
      omega
    rw [xAt, yAt, mapAt]
    congr 1
    exact (apply_ite Nat.cast _ _ _).symm

/-- The background index is 0 when the background is off (48_dmg.md R854). -/
theorem ite_pixel_toNat (on : Bool) (b : Byte) : (if on then b else 0 : Byte).toNat = if on then b.toNat else 0 := by
  cases on <;> rfl

/-- An entry shows where its index is not 0 (48_dmg.md R858). -/
def shownEntry (e : DmgSprite) : Option Byte → Option (DmgSprite × Byte)
  | some si => if si = 0 then none else some (e, si)
  | none => none

/-- The index of entry `i` of the table at a pixel (48_dmg.md R857). -/
def tableIndex (s : State) (x y i : Nat) : Option Byte :=
  dmgSpriteIndex s (dmgHeight (lcdObj16 s.lcdc)) (s.dmgSprite i) x y

theorem dmgFirstSprite_eq (s : State) (sel : List Nat) (x y : Nat) :
    dmgFirstSprite s sel x y = sel.findSome? fun i => shownEntry (s.dmgSprite i) (tableIndex s x y i) := by
  unfold dmgFirstSprite tableIndex
  refine congrArg (fun f => List.findSome? f sel) (funext fun i => ?_)
  dsimp only
  generalize dmgSpriteIndex s (dmgHeight (lcdObj16 s.lcdc)) (s.dmgSprite i) x y = r
  cases r with
  | none => rfl
  | some si => rfl

theorem shownEntry_of_clear (e : DmgSprite) {r : Option Byte} (h : r = none ∨ r = some 0) : shownEntry e r = none := by
  obtain rfl | rfl := h <;> rfl

theorem shownEntry_some (e : DmgSprite) {si : Byte} (h : si ≠ 0) : shownEntry e (some si) = some (e, si) := if_neg h

theorem State.dmgSprite_eq (s : State) (i : Nat) : s.dmgSprite i =
    dmgSpriteOf (s.readU8 .vramDmg (0x2000 + 4 * i)) (s.readU8 .vramDmg (0x2001 + 4 * i))
      (s.readU8 .vramDmg (0x2002 + 4 * i)) (s.readU8 .vramDmg (0x2003 + 4 * i)) := rfl

/-- What DMG_SPRITE_ENTRY gives of entry `i` of the table is the entry's index at the pixel. -/
theorem tableIndex_of_exec {s : State} {i x y : Byte} {r : Option Byte}
    (h : exec (.dmgSpriteEntry (s.readU8 .vramDmg (0x2000 + 4 * i.toNat)) (s.readU8 .vramDmg (0x2001 + 4 * i.toNat))
      (s.readU8 .vramDmg (0x2002 + 4 * i.toNat)) (s.readU8 .vramDmg (0x2003 + 4 * i.toNat)) x y) s =
        .next { s with result := .indexIfCovered r }) :
    tableIndex s x.toNat y.toNat i.toNat = r := by
  rw [exec_dmgSpriteEntry] at h
  have result := congrArg State.result (Host.Outcome.next.inj h)
  rw [State.give_result] at result
  rw [tableIndex, State.dmgSprite_eq]
  exact Result.indexIfCovered.inj result

theorem dmgFirstSprite_clear {s : State} {x y : Nat} {l : List Byte}
    (h : ∀ i ∈ l, tableIndex s x y i.toNat = none ∨ tableIndex s x y i.toNat = some 0) :
    dmgFirstSprite s (l.map BitVec.toNat) x y = none := by
  rw [dmgFirstSprite_eq, List.findSome?_eq_none_iff]
  intro i hi
  obtain ⟨j, hj, rfl⟩ := List.mem_map.mp hi
  exact shownEntry_of_clear _ (h j hj)

/-- Entries that are clear do not hide the first that is not. -/
theorem dmgFirstSprite_append {s : State} {x y : Nat} {before after : List Byte} {i si : Byte}
    (h : ∀ j ∈ before, tableIndex s x y j.toNat = none ∨ tableIndex s x y j.toNat = some 0) (shown : si ≠ 0)
    (index : tableIndex s x y i.toNat = some si) :
    dmgFirstSprite s ((before ++ i :: after).map BitVec.toNat) x y = some (s.dmgSprite i.toNat, si) := by
  rw [dmgFirstSprite_eq, List.findSome?_eq_some_iff]
  refine ⟨before.map BitVec.toNat, i.toNat, after.map BitVec.toNat, List.map_append, ?_, fun k hk => ?_⟩
  · rw [index, shownEntry_some _ shown]
  · obtain ⟨j, hj, rfl⟩ := List.mem_map.mp hk
    exact shownEntry_of_clear _ (h j hj)

/-- DMG_PIXEL where no sprite shows (48_dmg.md R859). -/
theorem dmgPixel_background {s : State} {x y : Nat} {sel : List Nat} (h : dmgFirstSprite s sel x y = none) :
    dmgPixel s x y sel = dmgColour s.bgp (dmgBgIndex s x y).toNat := by
  unfold dmgPixel
  rw [h]

/-- DMG_PIXEL where a sprite shows (48_dmg.md R859). -/
theorem dmgPixel_sprite {s : State} {x y : Nat} {sel : List Nat} {e : DmgSprite} {si : Byte}
    (h : dmgFirstSprite s sel x y = some (e, si)) :
    dmgPixel s x y sel =
      if bit e.flags 7 = true ∧ (dmgBgIndex s x y).toNat ≠ 0 then dmgColour s.bgp (dmgBgIndex s x y).toNat
      else dmgColour (if bit e.flags 4 then s.obp1 else s.obp0) si.toNat := by
  unfold dmgPixel
  rw [h]
  exact if_congr (and_congr Iff.rfl (not_congr (byte_eq_zero_iff _))) rfl rfl

/-- Settles O50: the first entry that is not clear, or the background alone. -/
theorem dmgPixelColour : Obligations.DmgPixelColour := by
  intro x y sel s _ _ reg lcdc window mx my map tile ta plane bi entry clear background
  have index : (dmgBgIndex s x.toNat y.toNat).toNat = bi := by
    rw [dmgBgIndex_eq, ite_pixel_toNat]
    exact if_congr Iff.rfl (mapPixel_toNat s map mx my) rfl
  have clear_index (i : Byte) (h : clear i) : tableIndex s x.toNat y.toNat i.toNat = none ∨
      tableIndex s x.toNat y.toNat i.toNat = some 0 := h.imp tableIndex_of_exec tableIndex_of_exec
  constructor
  · intro allClear
    have none := dmgFirstSprite_clear fun i hi => clear_index i (allClear i hi)
    rw [exec_dmgPixel, dmgPixel_background none, index]
    rfl
  · intro before after i si split firstClear shown run flags colour
    have first := dmgFirstSprite_append (after := after) (fun j hj => clear_index j (firstClear j hj)) shown
      (tableIndex_of_exec run)
    rw [← split] at first
    rw [exec_dmgPixel, dmgPixel_sprite first, index]
    rfl

end Sys2Proof.Machine
end

section
/-! Mode 0: the frame as the operations of its lines, the background lines, the sprite line and the composition. -/

namespace Sys2Proof.Machine

open Sys2Proof

/-! ### The frame -/

/-- A legal `frame_width` is the width of the lines (49_mode0.md R903). -/
theorem m0Width_of_legal {s : State} (h : 1 ≤ s.regs.frameWidth.toNat ∧ s.regs.frameWidth.toNat ≤ 1280) :
    s.m0Width = s.regs.frameWidth.toNat := if_pos h

theorem renderMode0_illegal {s : State} (shown : s.m0.g.forcedBlank = false)
    (h : ¬ (1 ≤ s.regs.frameWidth.toNat ∧ s.regs.frameWidth.toNat ≤ 1280)) : s.renderMode0 = s := by
  unfold State.renderMode0
  rw [shown]
  exact if_neg h

theorem renderMode0_legal {s : State} (shown : s.m0.g.forcedBlank = false)
    (h : 1 ≤ s.regs.frameWidth.toNat ∧ s.regs.frameWidth.toNat ≤ 1280) :
    s.renderMode0 = s.withFrame s.regs.frameWidth.toNat Config.m0H (m0Row s.m0 s.regs.frameWidth.toNat) := by
  unfold State.renderMode0
  rw [shown]
  exact if_pos h

theorem toNat_ofNat16 {k : Nat} (h : k < 65536) : (BitVec.ofNat 16 k).toNat = k := Nat.mod_eq_of_lt h

/-- The instruction that draws BG `b` on line `y` by the path its flag selects (49_mode0.md R902). -/
def m0BgInstr (s : State) (y b : Nat) : Instr :=
  if (s.m0.bg b).affine then .m0BgAffine (BitVec.ofNat 8 b) (BitVec.ofNat 16 y)
  else .m0BgText (BitVec.ofNat 8 b) (BitVec.ofNat 16 y)

/-- The backgrounds that a frame of mode 0 draws. -/
def m0Drawn (s : State) : List Nat := (List.range 4).filter fun b => (s.m0.bg b).enabled

theorem mode0Line_eq (s : State) (y : Nat) : s.mode0Line y =
    (m0Drawn s).map (m0BgInstr s y) ++ [.m0SpriteLine (BitVec.ofNat 16 y), .m0ComposeLine (BitVec.ofNat 16 y)] := rfl

theorem mem_m0Drawn (s : State) (b : Nat) : b ∈ m0Drawn s ↔ b < 4 ∧ (s.m0.bg b).enabled = true := by
  unfold m0Drawn
  rw [List.mem_filter, List.mem_range]

theorem exec_m0BgInstr_withLine {s : State} (lb : LineBuffers) {b y : Nat} (hb : b ∈ m0Drawn s) (hy : y < 360) :
    exec (m0BgInstr s y b) (s.withLine lb) = .next (s.withLine (lb.setBg b (bgBuffer s.m0Width (m0BgPixel s.m0 b y)))) := by
  obtain ⟨b4, enabled⟩ := (mem_m0Drawn s b).mp hb
  have text (b : Byte) (y : Half) : exec (.m0BgText b y) (s.withLine lb) =
      .next (s.withLine (lb.setBg b.toNat (bgBuffer s.m0Width (m0TextPixel s.m0 b.toNat y.toNat)))) := rfl
  have affine (b : Byte) (y : Half) : exec (.m0BgAffine b y) (s.withLine lb) =
      .next (s.withLine (lb.setBg b.toNat (bgBuffer s.m0Width (m0AffinePixel s.m0 b.toNat y.toNat)))) := rfl
  have b8 : (BitVec.ofNat 8 b).toNat = b := toNat_ofNat8 (by omega)
  have y16 : (BitVec.ofNat 16 y).toNat = y := toNat_ofNat16 (by omega)
  have pixel : m0BgPixel s.m0 b y = if (s.m0.bg b).affine then m0AffinePixel s.m0 b y else m0TextPixel s.m0 b y := by
    funext x
    unfold m0BgPixel
    rw [if_pos enabled]
    split <;> rfl
  unfold m0BgInstr
  rw [pixel]
  split
  · rw [affine, b8, y16]
  · rw [text, b8, y16]

/-- The last two operations of a line: the sprites, then the composition (49_mode0.md R902). -/
theorem execAll_m0LineEnd (s : State) (lb : LineBuffers) {y : Nat} (hy : y < 360) :
    execAll [.m0SpriteLine (BitVec.ofNat 16 y), .m0ComposeLine (BitVec.ofNat 16 y)] (s.withLine lb) =
      (let lines := { lb with spr := sprBuffer s.m0Width (m0SpritePixel s.m0 y) }
      .next { s with line := lines, fb := writeRow s.fb s.m0Width y (m0ComposeRow s.m0 s.m0Width lines y) }) := by
  have run (y : Half) : execAll [.m0SpriteLine y, .m0ComposeLine y] (s.withLine lb) =
      (let lines := { lb with spr := sprBuffer s.m0Width (m0SpritePixel s.m0 y.toNat) }
      .next { s with line := lines, fb := writeRow s.fb s.m0Width y.toNat (m0ComposeRow s.m0 s.m0Width lines y.toNat) }) := rfl
  rw [run, toNat_ofNat16 (by omega)]

theorem m0Lines_bg (s : State) (w y : Nat) {c : Nat} (hc : c < 4) :
    (m0Lines s.m0 w y).bg c = if c ∈ m0Drawn s then bgBuffer w (m0BgPixel s.m0 c y) else [] := by
  have lines : (m0Lines s.m0 w y).bg c = bgBuffer w (m0BgPixel s.m0 c y) := by
    obtain rfl | rfl | rfl | rfl : c = 0 ∨ c = 1 ∨ c = 2 ∨ c = 3 := by omega
    all_goals rfl
  split
  · exact lines
  · next notDrawn =>
    rw [mem_m0Drawn, not_and, Bool.not_eq_true] at notDrawn
    have transparent : m0BgPixel s.m0 c y = fun _ => BgCol.transparent := by
      funext x
      unfold m0BgPixel
      rw [notDrawn hc]
      rfl
    rw [lines, transparent, bgBuffer_transparent]

theorem m0ComposeLine_pixel (s : State) (M : M0Record) {w : Nat} (lb : LineBuffers) (y : Nat) {x : Nat} (hx : x < w) :
    Memory.read 0 (writeRow s.fb w y (m0ComposeRow M w lb y)) (y * w + x) = m0ComposePixel M w lb y x :=
  writeRow_map_pixel s.fb y (m0ComposePixel M w lb y) hx

/-- A line of a frame of mode 0 writes the words of the frame's row. -/
theorem execAll_mode0Line {s : State} {w y : Nat} (width : s.m0Width = w) (hy : y < 360) :
    ∃ u : State, execAll (s.mode0Line y) s.clearLine = .next u ∧
      ∀ x : Nat, x < w → u.fbWord (y * w + x) = m0ComposePixel s.m0 w (m0Lines s.m0 w y) y x := by
  subst width
  rw [mode0Line_eq, ← State.withLine_cleared, execAll_bgs fun b hb lb => exec_m0BgInstr_withLine lb hb hy,
    execAll_m0LineEnd s _ hy]
  have lines := drawBgs_eq (m := fun b => bgBuffer s.m0Width (m0BgPixel s.m0 b y)) (fun b hb => ((mem_m0Drawn s b).mp hb).1)
    (fun c hc => m0Lines_bg s s.m0Width y hc)
  refine ⟨_, rfl, fun x hx => ?_⟩
  refine (m0ComposeLine_pixel s s.m0 _ y hx).trans ?_
  rw [← lines]
  rfl

/-- A frame changes the framebuffer and the line buffers only (47_dispatch.md R808). -/
theorem withFrame_frame (s : State) (w h : Nat) (row : Nat → List Word) :
    s.withFrame w h row = { s with fb := (s.withFrame w h row).fb, line := (s.withFrame w h row).line } := rfl

/-- Settles O52: an illegal width is a no-op, a legal one gives the rows that the lines' operations write. -/
theorem mode0Frame : Obligations.Mode0Frame := by
  intro s shown w
  refine ⟨fun illegal => ?_, fun low high => ?_⟩
  · exact congrArg Host.Outcome.next (renderMode0_illegal shown (by omega))
  · refine ⟨_, congrArg Host.Outcome.next (renderMode0_legal shown ⟨low, high⟩), withFrame_frame _ _ _ _,
      fun i hi => ?_, fun y hy => ?_⟩
    · have height : Config.m0H = 360 := rfl
      exact withFrame_outside s (fun y => m0ComposeRow_length s.m0 w (m0Lines s.m0 w y) y) (by rw [height]; exact hi)
    · obtain ⟨u, run, words⟩ := execAll_mode0Line (m0Width_of_legal ⟨low, high⟩) hy
      refine ⟨u, run, fun x hx => Eq.trans ?_ (words x hx).symm⟩
      exact withFrame_pixel s (fun y => m0ComposePixel s.m0 w (m0Lines s.m0 w y) y) hx hy

/-! ### Background lines -/

/-- A read of `TILES` (49_mode0.md R908). -/
theorem readTile_eq (M : M0Record) (o : Int) : M.readTile o = if 0 ≤ o ∧ o < 0x200000 then M.tile o.toNat else 0 := by
  unfold M0Record.readTile
  refine if_congr ((inRange_iff _ o 1).trans (and_congr Iff.rfl ?_)) rfl rfl
  show o + 1 ≤ (0x200000 : Int) ↔ _
  omega

/-- `fetch` (41_pixel_decoders.md R456) as a number, for any point. -/
theorem fetchPixel_toNat_int (rd : Int → Byte) (ta x y : Int) (hf vf b8 : Bool) :
    (fetchPixel rd ta x y hf vf b8).toNat =
      (let px := if hf then 7 - x else x
      let py := if vf then 7 - y else y
      if b8 then (rd (ta + py * 8 + px)).toNat
      else if px % 2 = 0 then bitsN (rd (ta + py * 4 + px / 2)) 0 4 else bitsN (rd (ta + py * 4 + px / 2)) 4 4) :=
  decodePixel_toNat rd ta (if hf then 7 - x else x) (if vf then 7 - y else y) b8

/-- Palette selection (49_mode0.md R909) from the index as a number. -/
theorem m0Colour_eq (M : M0Record) (bpp8 : Bool) (pal : Nat) (idx : Byte) :
    m0Colour M bpp8 pal idx =
      (let c := M.pal (pal / 16) (if bpp8 then idx.toNat else pal % 16 * 16 + idx.toNat)
      if pal / 16 < 6 then some (rgba c.1 c.2.1 c.2.2) else none) := rfl

/-- The pixel of a texture point (49_mode0.md R907, R908, R909, R910), over natural numbers. -/
theorem m0Texel_eq (M : M0Record) (b : Nat) (u v : Int) :
    m0Texel M b u v =
      (let bg := M.bg b
      let k := (v / 8 * bg.widthTiles + u / 8).toNat
      let e := M.map b k
      let px := if bit e 27 then 7 - u % 8 else u % 8
      let py := if bit e 28 then 7 - v % 8 else v % 8
      let ta : Int := (bitsN e 0 16 * (if bg.bpp8 then 64 else 32) : Nat)
      let tile := fun o : Int => if 0 ≤ o ∧ o < 0x200000 then M.tile o.toNat else 0
      let b4 := tile (ta + py * 4 + px / 2)
      let idx : Nat := if bg.bpp8 then (tile (ta + py * 8 + px)).toNat
        else if px % 2 = 0 then bitsN b4 0 4 else bitsN b4 4 4
      let pal := bitsN e 16 8
      let c := M.pal (pal / 16) (if bg.bpp8 then idx else pal % 16 * 16 + idx)
      if k < M.tilemapEntries ∧ idx ≠ 0 ∧ pal / 16 < 6 then
        BgCol.mk (rgba c.1 c.2.1 c.2.2) bg.layerPriority (BitVec.ofNat 3 (bitsN e 24 3))
      else BgCol.transparent) := by
  extract_lets bg k e px py ta tile b4 idx pal c
  have address : tileAddrM0 (supersetEntry e).tile bg.bpp8 = ta := by
    simp only [tileAddrM0, supersetEntry, ta]
    split <;> push_cast <;> rfl
  have read : M.readTile = tile := funext (readTile_eq M)
  have prio : (supersetEntry e).tprio = BitVec.ofNat 3 (bitsN e 24 3) := BitVec.eq_of_toNat_eq (by simp [supersetEntry, bitsN])
  have index := fetchPixel_toNat_int tile ta (u % 8) (v % 8) (bit e 27) (bit e 28) bg.bpp8
  unfold m0Texel
  dsimp only
  have flips : (supersetEntry e).hflip = bit e 27 ∧ (supersetEntry e).vflip = bit e 28 := ⟨rfl, rfl⟩
  rw [address, read, prio, flips.1, flips.2]
  generalize fetchPixel tile ta (u % 8) (v % 8) (bit e 27) (bit e 28) bg.bpp8 = i at index
  have number : i.toNat = idx := index
  have colour : m0Colour M bg.bpp8 (supersetEntry e).pal i = if pal / 16 < 6 then some (rgba c.1 c.2.1 c.2.2) else none := by
    rw [m0Colour_eq, number]
    rfl
  have clear : i = 0 ↔ idx = 0 := (byte_eq_zero_iff i).trans (by rw [number])
  have entry : (v / 8 * (M.bg b).widthTiles + u / 8).toNat = k := rfl
  rw [colour, entry]
  simp only [clear]
  by_cases inMap : k < M.tilemapEntries
  · by_cases zero : idx = 0
    · simp [zero]
    · by_cases bank : pal / 16 < 6
      · simp [inMap, zero, bank, bg]
      · simp [bank]
  · simp [inMap]

/-- A column of a line is the texel of its texture point, where both coordinates lie on their axes (49_mode0.md R905). -/
theorem m0Column_eq (M : M0Record) (b : Nat) (uv : Int × Int) :
    m0Column M b uv =
      (let Wp : Int := (M.bg b).widthTiles * 8
      let Hp : Int := (M.bg b).heightTiles * 8
      let u := if (M.bg b).wrapX then uv.1 % Wp else uv.1
      let v := if (M.bg b).wrapY then uv.2 % Hp else uv.2
      if (0 ≤ u ∧ u < Wp) ∧ 0 ≤ v ∧ v < Hp then m0Texel M b u v else BgCol.transparent) := by
  extract_lets Wp Hp u v
  have point : m0Column M b uv =
      pointColumn (m0Texel M b) (wrapOrClip (M.bg b).wrapX Wp uv.1) (wrapOrClip (M.bg b).wrapY Hp uv.2) := rfl
  rw [point, wrapOrClip_eq, wrapOrClip_eq, pointColumn_ite]

/-- The texture point of a column on the affine path: the cursor's (49_mode0.md R906). -/
theorem m0AffineUV_eq (M : M0Record) (b y x : Nat) :
    m0AffineUV M b y x =
      (let bg := M.bg b
      let la := M.lineAffine b y
      let start : Int × Int := if la.valid then (la.tx, la.ty)
        else (bg.ox + bg.matrix.pb * y, bg.oy + bg.matrix.pd * y)
      let cursor := (fun p : Int × Int => (p.1 + bg.matrix.pa, p.2 + bg.matrix.pc))^[x] start
      (cursor.1 / 256, cursor.2 / 256)) := by
  extract_lets bg la start cursor
  have cursor_eq : cursor = (cursorAt start.1 bg.matrix.pa x, cursorAt start.2 bg.matrix.pc x) :=
    cursor_iterate bg.matrix.pa bg.matrix.pc start x
  rw [cursor_eq]
  unfold m0AffineUV
  cases valid : la.valid <;> simp [start, la, bg, valid]

/-- Settles O53: the path's texture point, then the wrap or clip, then the texel. -/
theorem m0BgLineColumns : Obligations.M0BgLineColumns := by
  intro affine b y s hb _ fw W bg ls la start cursor uv Wp Hp column
  let draw := fun x => m0Column s.m0 b.toNat (uv x)
  have column_eq (x : Nat) : draw x = column x := by
    refine (m0Column_eq s.m0 b.toNat (uv x)).trans ?_
    simp only [m0Texel_eq, ← ite_and, and_assoc]
    rfl
  obtain ⟨frame, spr, line, others⟩ := setBgLine_frame s b.toNat s.m0Width draw hb
  refine ⟨s.setBgLine b.toNat (bgBuffer s.m0Width draw), ?_, frame, spr, fun x => ?_, others⟩
  · cases affine with
    | false => rfl
    | true =>
      have path : draw = m0AffinePixel s.m0 b.toNat y.toNat :=
        funext fun x => congrArg (m0Column s.m0 b.toNat) (m0AffineUV_eq s.m0 b.toNat y.toNat x).symm
      rw [path]
      rfl
  · rw [line, column_eq]
    rfl

end Sys2Proof.Machine
end

section
/-! Mode 0, continued: the sprite line and the composition. -/

namespace Sys2Proof.Machine

open Sys2Proof

/-! ### One sprite record at one column -/

/-- The texture point of a record at a pixel (49_mode0.md R911): by its matrix, or by its flips. -/
def m0SpritePoint (M : M0Record) (r : M0Sprite) (y sx : Int) : Int × Int :=
  let w : Int := r.w8 * 8
  let h : Int := r.h8 * 8
  let scale : Int := if r.affine = true ∧ r.doubleSize = true then 2 else 1
  let cx := sx - r.x
  let iy := y - r.y
  let m := M.saff r.affineIndex
  let irx := cx - w * scale / 2
  let iry := iy - h * scale / 2
  (if r.affine then (m.pa * irx + m.pb * iry) / 256 + w / 2 else if r.hflip then w - 1 - cx else cx,
    if r.affine then (m.pc * irx + m.pd * iry) / 256 + h / 2 else if r.vflip then h - 1 - iy else iy)

/-- The colour index of a record at a pixel (49_mode0.md R911). -/
def m0SpriteNumber (M : M0Record) (r : M0Sprite) (p : Int × Int) : Nat :=
  let tile := fun o : Int => if 0 ≤ o ∧ o < 0x200000 then M.tile o.toNat else 0
  let ta := (r.tile + (p.2 / 8 * r.w8 + p.1 / 8) * (if r.bpp8 then 2 else 1)) * (32 : Int)
  if r.bpp8 then (tile (ta + p.2 % 8 * 8 + p.1 % 8)).toNat
  else
    let b4 := tile (ta + p.2 % 8 * 4 + p.1 % 8 / 2)
    if p.1 % 8 % 2 = 0 then bitsN b4 0 4 else bitsN b4 4 4

/-- A record has a non-transparent texel at a pixel (49_mode0.md R911). -/
def m0Shows (M : M0Record) (r : M0Sprite) (y sx : Int) : Prop :=
  let w : Int := r.w8 * 8
  let h : Int := r.h8 * 8
  let scale : Int := if r.affine = true ∧ r.doubleSize = true then 2 else 1
  let p := m0SpritePoint M r y sx
  r.enabled = true ∧ 0 < w ∧ 0 < h ∧ (r.affine = true → r.affineIndex < 64) ∧ 0 ≤ y - r.y ∧ y - r.y < h * scale ∧
    0 ≤ sx - r.x ∧ sx - r.x < w * scale ∧ 0 ≤ p.1 ∧ p.1 < w ∧ 0 ≤ p.2 ∧ p.2 < h ∧ m0SpriteNumber M r p ≠ 0

/-- The colour of a record's texel (49_mode0.md R909). -/
def m0SpriteColour (M : M0Record) (r : M0Sprite) (y sx : Int) : Word :=
  let idx := m0SpriteNumber M r (m0SpritePoint M r y sx)
  let c := M.pal (r.palette / 16) (if r.bpp8 then idx else r.palette % 16 * 16 + idx)
  rgba c.1 c.2.1 c.2.2

/-- What a record's texel does to its column (49_mode0.md R911). -/
def m0SpriteDraw (M : M0Record) (r : M0Sprite) (y sx : Int) (c : SprCol) : SprCol :=
  if r.objwin then c.markWindow
  else if r.palette / 16 < 6 then c.offer (m0Priority r.priority) (m0SpriteColour M r y sx) r.semi
  else c

/-- The texture point, where it lies in the record's rectangle (49_mode0.md R911). -/
theorem m0SpriteTexel_eq (M : M0Record) (r : M0Sprite) (y sx : Int)
    (row : 0 ≤ y - r.y ∧ y - r.y < (r.h8 * 8 : Int) * (if r.affine = true ∧ r.doubleSize = true then 2 else 1))
    (column : 0 ≤ sx - r.x ∧ sx - r.x < (r.w8 * 8 : Int) * (if r.affine = true ∧ r.doubleSize = true then 2 else 1)) :
    m0SpriteTexel M r (r.w8 * 8) (r.h8 * 8) (if r.affine = true ∧ r.doubleSize = true then 2 else 1) (sx - r.x) (y - r.y) =
      (let p := m0SpritePoint M r y sx
      if 0 ≤ p.1 ∧ p.1 < (r.w8 * 8 : Int) ∧ 0 ≤ p.2 ∧ p.2 < (r.h8 * 8 : Int) then some p else none) := by
  unfold m0SpriteTexel m0SpritePoint
  cases affine : r.affine with
  | true => rfl
  | false =>
    simp only [affine, Bool.false_eq_true, false_and, if_false, Int.mul_one] at row column ⊢
    refine (if_pos ?_).symm
    split_ifs <;> omega

theorem m0SpriteIndex_toNat (M : M0Record) (r : M0Sprite) (tx ty : Int) :
    (decodePixel M.readTile ((r.tile + (ty / 8 * r.w8 + tx / 8) * (if r.bpp8 then 2 else 1)) * 32) (tx % 8) (ty % 8)
      r.bpp8).toNat = m0SpriteNumber M r (tx, ty) := by
  have read : M.readTile = fun o : Int => if 0 ≤ o ∧ o < 0x200000 then M.tile o.toNat else 0 := funext (readTile_eq M)
  rw [decodePixel_toNat, read]
  rfl

/-- What a record's texel does to its column, its colour looked up (49_mode0.md R909, R911). -/
theorem m0SpriteDraw_eq (M : M0Record) (r : M0Sprite) (y sx : Int) (c : SprCol) {idx : Byte}
    (number : idx.toNat = m0SpriteNumber M r (m0SpritePoint M r y sx)) :
    (if r.objwin then c.markWindow
      else
        match m0Colour M r.bpp8 r.palette idx with
        | none => c
        | some w => c.offer (m0Priority r.priority) w r.semi) = m0SpriteDraw M r y sx c := by
  have colour : m0Colour M r.bpp8 r.palette idx = if r.palette / 16 < 6 then some (m0SpriteColour M r y sx) else none := by
    rw [m0Colour_eq, number]
    rfl
  unfold m0SpriteDraw
  rw [colour]
  by_cases bank : r.palette / 16 < 6 <;> simp [bank]

/-- What a record does to a column of its box: nothing where the texture point is none (49_mode0.md R911). -/
def m0PointColumn (M : M0Record) (r : M0Sprite) (c : SprCol) : Option (Int × Int) → SprCol
  | none => c
  | some (tx, ty) =>
    let idx := decodePixel M.readTile ((r.tile + (ty / 8 * r.w8 + tx / 8) * (if r.bpp8 then 2 else 1)) * 32) (tx % 8) (ty % 8)
      r.bpp8
    if idx = 0 then c
    else if r.objwin then c.markWindow
    else
      match m0Colour M r.bpp8 r.palette idx with
      | none => c
      | some w => c.offer (m0Priority r.priority) w r.semi

theorem m0PointColumn_some (M : M0Record) (r : M0Sprite) (y sx : Int) (c : SprCol) :
    m0PointColumn M r c (some (m0SpritePoint M r y sx)) =
      if m0SpriteNumber M r (m0SpritePoint M r y sx) = 0 then c else m0SpriteDraw M r y sx c := by
  have number := m0SpriteIndex_toNat M r (m0SpritePoint M r y sx).1 (m0SpritePoint M r y sx).2
  unfold m0PointColumn
  dsimp only
  rw [m0SpriteDraw_eq M r y sx c number]
  exact if_congr ((byte_eq_zero_iff _).trans (by rw [number])) rfl rfl

/-- A record draws its texel inside its box (49_mode0.md R911). -/
theorem m0SpriteColumn_eq (M : M0Record) (r : M0Sprite) (y sx : Int) (c : SprCol) :
    m0SpriteColumn M r y sx c =
      (let w : Int := r.w8 * 8
      let h : Int := r.h8 * 8
      let k : Int := if r.affine = true ∧ r.doubleSize = true then 2 else 1
      if r.enabled = true ∧ 0 < w ∧ 0 < h ∧ ¬ (r.affine = true ∧ 64 ≤ r.affineIndex)
          ∧ r.y ≤ y ∧ y < r.y + h * k ∧ r.x ≤ sx ∧ sx < r.x + w * k then
        m0PointColumn M r c (m0SpriteTexel M r w h k (sx - r.x) (y - r.y))
      else c) := by
  extract_lets w h k
  have scale : (if (r.affine && r.doubleSize) = true then 2 else 1 : Int) = k := by simp only [Bool.and_eq_true, k]
  unfold m0SpriteColumn
  dsimp only
  rw [scale]
  refine if_congr Iff.rfl ?_ rfl
  cases m0SpriteTexel M r w h k (sx - r.x) (y - r.y) with
  | none => rfl
  | some p => rfl

theorem m0SpriteColumn_shows {M : M0Record} {r : M0Sprite} {y sx : Int} (shows : m0Shows M r y sx) (c : SprCol) :
    m0SpriteColumn M r y sx c = m0SpriteDraw M r y sx c := by
  obtain ⟨enabled, hw, hh, matrix, row0, row1, col0, col1, tx0, tx1, ty0, ty1, visible⟩ := shows
  have box : ¬ (r.affine = true ∧ 64 ≤ r.affineIndex) := fun ⟨affine, past⟩ => absurd (matrix affine) (by omega)
  rw [m0SpriteColumn_eq]
  dsimp only
  rw [if_pos ⟨enabled, hw, hh, box, by omega, by omega, by omega, by omega⟩,
    m0SpriteTexel_eq M r y sx ⟨row0, row1⟩ ⟨col0, col1⟩]
  dsimp only
  rw [if_pos ⟨tx0, tx1, ty0, ty1⟩, m0PointColumn_some, if_neg visible]

theorem m0SpriteColumn_not_shows {M : M0Record} {r : M0Sprite} {y sx : Int} (hidden : ¬ m0Shows M r y sx) (c : SprCol) :
    m0SpriteColumn M r y sx c = c := by
  rw [m0SpriteColumn_eq]
  refine ite_eq_right_iff.mpr fun ⟨enabled, hw, hh, matrix, row0, row1, col0, col1⟩ => ?_
  rw [m0SpriteTexel_eq M r y sx ⟨by omega, by omega⟩ ⟨by omega, by omega⟩]
  dsimp only
  split
  · next inside =>
    obtain ⟨tx0, tx1, ty0, ty1⟩ := inside
    have clear : m0SpriteNumber M r (m0SpritePoint M r y sx) = 0 := by
      by_contra visible
      exact hidden ⟨enabled, hw, hh, fun affine => by by_contra past; exact matrix ⟨affine, by omega⟩, by omega, by omega,
        by omega, by omega, tx0, tx1, ty0, ty1, visible⟩
    rw [m0PointColumn_some, if_pos clear]
  · rfl

/-! ### The sprite line -/

/-- A record offers a colour at a pixel (49_mode0.md R911). -/
def m0Paints (M : M0Record) (r : M0Sprite) (y sx : Int) : Prop := m0Shows M r y sx ∧ r.objwin = false ∧ r.palette / 16 < 6

theorem m0SpriteColumn_paints {M : M0Record} {r : M0Sprite} {y sx : Int} (paints : m0Paints M r y sx) (c : SprCol) :
    m0SpriteColumn M r y sx c = c.offer (m0Priority r.priority) (m0SpriteColour M r y sx) r.semi := by
  obtain ⟨shows, colour, bank⟩ := paints
  rw [m0SpriteColumn_shows shows, m0SpriteDraw, colour, if_neg Bool.false_ne_true, if_pos bank]

theorem m0SpriteColumn_not_paints {M : M0Record} {r : M0Sprite} {y sx : Int} (h : ¬ m0Paints M r y sx) (c : SprCol) :
    (m0SpriteColumn M r y sx c).colour = c.colour ∧ (m0SpriteColumn M r y sx c).prio = c.prio ∧
      (m0SpriteColumn M r y sx c).semi = c.semi := by
  by_cases shows : m0Shows M r y sx
  · rw [m0SpriteColumn_shows shows, m0SpriteDraw]
    cases objwin : r.objwin with
    | true => exact ⟨rfl, rfl, rfl⟩
    | false =>
      rw [if_neg Bool.false_ne_true, if_neg fun bank => h ⟨shows, objwin, bank⟩]
      exact ⟨rfl, rfl, rfl⟩
  · rw [m0SpriteColumn_not_shows shows]
    exact ⟨rfl, rfl, rfl⟩

theorem SprCol.offer_objwin (c : SprCol) (p : Byte) (w : Word) (m : Bool) : (c.offer p w m).objwin = c.objwin := by
  rw [SprCol.offer_eq]
  split <;> rfl

theorem m0SpriteColumn_objwin (M : M0Record) (r : M0Sprite) (y sx : Int) (c : SprCol) :
    (m0SpriteColumn M r y sx c).objwin = true ↔ c.objwin = true ∨ (m0Shows M r y sx ∧ r.objwin = true) := by
  by_cases shows : m0Shows M r y sx
  · rw [m0SpriteColumn_shows shows, m0SpriteDraw]
    cases objwin : r.objwin with
    | true => exact ⟨fun _ => Or.inr ⟨shows, rfl⟩, fun _ => rfl⟩
    | false =>
      rw [if_neg Bool.false_ne_true]
      split
      · rw [SprCol.offer_objwin]
        simp
      · simp
  · rw [m0SpriteColumn_not_shows shows]
    simp [shows]

/-- The fold of the records from `n - 1` down over an empty column (49_mode0.md R911). -/
def m0SpriteFold (M : M0Record) (n y x : Nat) : SprCol :=
  (List.range n).reverse.foldl (fun c i => m0SpriteColumn M (M.spr i) y x c) SprCol.empty

theorem m0SpriteFold_objwin (M : M0Record) (n y x : Nat) :
    (m0SpriteFold M n y x).objwin = true ↔ ∃ i : Nat, i < n ∧ m0Shows M (M.spr i) y x ∧ (M.spr i).objwin = true := by
  have marked := foldl_down_induction
    (fun k c => SprCol.objwin c = true ↔ ∃ i : Nat, (k ≤ i ∧ i < n) ∧ m0Shows M (M.spr i) y x ∧ (M.spr i).objwin = true)
    n (fun i c => m0SpriteColumn M (M.spr i) y x c) SprCol.empty ?start ?record
  case start => exact ⟨fun h => absurd h Bool.false_ne_true, fun ⟨i, h, _⟩ => absurd h.1 (by omega)⟩
  case record =>
    intro k c hk later
    rw [m0SpriteColumn_objwin, later]
    constructor
    · rintro (⟨i, inRange, marks⟩ | marks)
      · exact ⟨i, ⟨by omega, inRange.2⟩, marks⟩
      · exact ⟨k, ⟨Nat.le_refl k, hk⟩, marks⟩
    · rintro ⟨i, inRange, marks⟩
      by_cases e : i = k
      · subst e
        exact Or.inr marks
      · exact Or.inl ⟨i, ⟨by omega, inRange.2⟩, marks⟩
  simp only [Nat.zero_le, true_and] at marked
  exact marked

theorem m0SpriteFold_empty {M : M0Record} {n y x : Nat} (h : ∀ i : Nat, i < n → ¬ m0Paints M (M.spr i) y x) :
    (m0SpriteFold M n y x).colour = 0 ∧ (m0SpriteFold M n y x).prio = 0xFF ∧ (m0SpriteFold M n y x).semi = false := by
  refine foldl_down_induction (fun _ c => SprCol.colour c = 0 ∧ c.prio = 0xFF ∧ c.semi = false) n
    (fun i c => m0SpriteColumn M (M.spr i) y x c) SprCol.empty ⟨rfl, rfl, rfl⟩ fun i c hi empty => ?_
  obtain ⟨colour, prio, semi⟩ := m0SpriteColumn_not_paints (h i hi) c
  rwa [colour, prio, semi]

theorem m0Priority_toNat (p : Nat) : (m0Priority p).toNat = min p 255 := toNat_ofNat8 (by omega)

theorem m0SpriteFold_winner {M : M0Record} {n y x i : Nat} (hi : i < n) (paints : m0Paints M (M.spr i) y x)
    (first : ∀ j : Nat, j < n → m0Paints M (M.spr j) y x →
      min (M.spr i).priority 255 < min (M.spr j).priority 255 ∨
        (min (M.spr i).priority 255 = min (M.spr j).priority 255 ∧ i ≤ j)) :
    (m0SpriteFold M n y x).colour = m0SpriteColour M (M.spr i) y x ∧
      (m0SpriteFold M n y x).prio = m0Priority (M.spr i).priority ∧ (m0SpriteFold M n y x).semi = (M.spr i).semi := by
  refine offer_fold_winner hi (fun j c => m0SpriteColumn M (M.spr j) y x c) (m0SpriteColumn_paints paints) fun j hj ne => ?_
  by_cases other : m0Paints M (M.spr j) y x
  · refine Or.inr ⟨_, _, _, m0SpriteColumn_paints other, ?_⟩
    rw [m0Priority_toNat, m0Priority_toNat]
    have := first j hj other
    omega
  · exact Or.inl (m0SpriteColumn_not_paints other)

/-- Settles O54: the fold of the records at each column. -/
theorem m0SpriteLineColumns : Obligations.M0SpriteLineColumns := by
  intro y s _ fw W rec' w h scale cx iy m irx iry tx ty tile ta idx shows paints colour prio
  have line (x : Nat) : (s.setSprLine (sprBuffer s.m0Width (m0SpritePixel s.m0 y.toNat))).line.sprCol x =
      if x < W then m0SpritePixel s.m0 y.toNat x else SprCol.empty := sprBuffer_read s.m0Width _ x
  refine ⟨s.setSprLine (sprBuffer s.m0Width (m0SpritePixel s.m0 y.toNat)), rfl, rfl, rfl, fun x hx => ?_, fun x on hx => ?_⟩
  · rw [line]
    obtain off | past := hx
    · split
      · unfold m0SpritePixel
        rw [off]
        rfl
      · rfl
    · exact if_neg (by omega)
  · have fold : m0SpritePixel s.m0 y.toNat x = m0SpriteFold s.m0 Config.m0Sprites y.toNat x := by
      unfold m0SpritePixel
      rw [on]
      rfl
    rw [line, if_pos hx, fold]
    refine ⟨m0SpriteFold_objwin s.m0 Config.m0Sprites y.toNat x, fun none => ?_, fun i painted first => ?_⟩
    · exact m0SpriteFold_empty fun i hi h => none i ⟨hi, h⟩
    · obtain ⟨hi, winner⟩ := painted
      obtain ⟨shown, value, semi⟩ := m0SpriteFold_winner (n := Config.m0Sprites) hi winner fun j hj h => first j ⟨hj, h⟩
      exact ⟨shown, (congrArg BitVec.toNat value).trans (m0Priority_toNat _), semi⟩

/-! ### The order of the contributors -/

theorem insertKeyed_perm (k : Nat) (c : Contributor) (l : List (Nat × Contributor)) :
    (insertKeyed k c l).Perm ((k, c) :: l) := by
  induction l with
  | nil => exact List.Perm.refl _
  | cons d l ih =>
    unfold insertKeyed
    split
    · exact (ih.cons d).trans (List.Perm.swap _ _ l)
    · exact List.Perm.refl _

theorem sortKeyed_perm (l : List (Nat × Contributor)) : (sortKeyed l).Perm l :=
  foldl_insert_perm (insert := fun e => insertKeyed e.1 e.2) (fun e l => insertKeyed_perm e.1 e.2 l) l []

/-- A contributor of a new key put into a list of rising keys keeps them rising. -/
theorem insertKeyed_pairwise {k : Nat} (c : Contributor) {l : List (Nat × Contributor)}
    (hl : l.Pairwise fun a b => a.1 < b.1) (new : ∀ d ∈ l, d.1 ≠ k) :
    (insertKeyed k c l).Pairwise fun a b => a.1 < b.1 := by
  induction l with
  | nil => exact List.pairwise_singleton _ _
  | cons d l ih =>
    obtain ⟨first, rest⟩ := List.pairwise_cons.mp hl
    have ne := new d List.mem_cons_self
    unfold insertKeyed
    split
    · next le =>
      refine List.pairwise_cons.mpr ⟨fun e he => ?_, ih rest fun e he => new e (List.mem_cons_of_mem _ he)⟩
      obtain rfl | he := List.mem_cons.mp ((insertKeyed_perm k c l).mem_iff.mp he)
      · exact Nat.lt_of_le_of_ne le ne
      · exact first e he
    · next gt =>
      refine List.pairwise_cons.mpr ⟨fun e he => ?_, hl⟩
      obtain rfl | he := List.mem_cons.mp he
      · exact Nat.lt_of_not_le gt
      · exact Nat.lt_trans (Nat.lt_of_not_le gt) (first e he)

/-- Sorting contributors of different keys orders them by key. -/
theorem sortKeyed_pairwise {l : List (Nat × Contributor)} (hl : l.Pairwise fun a b => a.1 ≠ b.1) :
    (sortKeyed l).Pairwise fun a b => a.1 < b.1 :=
  foldl_insert_pairwise (insert := fun e => insertKeyed e.1 e.2) (fun e l => insertKeyed_perm e.1 e.2 l)
    (fun {e _} => insertKeyed_pairwise e.2) hl List.Pairwise.nil fun _ hd => absurd hd List.not_mem_nil

/-- The backgrounds of mode 0 among themselves (49_mode0.md R913). -/
def m0BgInFront (bg : Nat → BgCol) (b c : Nat) : Prop :=
  (bg b).prio.toNat < (bg c).prio.toNat ∨ ((bg b).prio = (bg c).prio ∧
    ((bg b).tprio.toNat < (bg c).tprio.toNat ∨ ((bg b).tprio = (bg c).tprio ∧ b < c)))

/-- The contributors of a column of mode 0 with their keys, before they are sorted (49_mode0.md R913). -/
def m0Keyed (en : BitVec 6) (spr : SprCol) (bg : Nat → BgCol) : List (Nat × Contributor) :=
  (if inSet en .obj && decide (spr.colour ≠ 0) then [(sprKey spr, spr.contributor)] else [])
    ++ ((List.range 4).filter fun b => inSet en (bgLayer b) && decide ((bg b).colour ≠ 0)).map
      fun b => (bgKey (bg b) b, (bg b).contributor b)

theorem m0Contributors_eq (en : BitVec 6) (spr : SprCol) (bg : Nat → BgCol) (w : Word) :
    m0Contributors en spr bg w = (sortKeyed (m0Keyed en spr bg)).map Prod.snd ++ [⟨.bd, w, false⟩] := rfl

theorem mem_m0Keyed (en : BitVec 6) (spr : SprCol) (bg : Nat → BgCol) (e : Nat × Contributor) :
    e ∈ m0Keyed en spr bg ↔
      (e = (sprKey spr, ⟨.obj, spr.colour, spr.semi⟩) ∧ bit en 4 = true ∧ spr.colour ≠ 0) ∨
      ∃ b : Nat, b < 4 ∧ e = (bgKey (bg b) b, ⟨bgLayer b, (bg b).colour, false⟩) ∧ bit en b = true ∧ (bg b).colour ≠ 0 := by
  have layer (b : Nat) (hb : b < 4) : inSet en (bgLayer b) = bit en b := by rw [inSet, layerNum_bgLayer b hb]
  have obj : inSet en .obj = bit en 4 := rfl
  unfold m0Keyed
  rw [List.mem_append]
  refine or_congr ?_ ?_
  · by_cases shown : bit en 4 = true ∧ spr.colour ≠ 0
    · rw [if_pos (by simpa [obj] using shown), List.mem_singleton]
      exact ⟨fun h => ⟨h, shown⟩, fun h => h.1⟩
    · rw [if_neg (by simpa [obj] using shown)]
      exact ⟨fun h => absurd h List.not_mem_nil, fun h => absurd h.2 shown⟩
  · simp only [List.mem_map, List.mem_filter, List.mem_range, Bool.and_eq_true, decide_eq_true_eq]
    constructor
    · rintro ⟨b, ⟨hb, on, shown⟩, rfl⟩
      exact ⟨b, hb, rfl, (layer b hb).symm.trans on, shown⟩
    · rintro ⟨b, hb, rfl, on, shown⟩
      exact ⟨b, ⟨hb, (layer b hb).trans on, shown⟩, rfl⟩

/-- The key of a background is above those of smaller layer priority, tile priority and number (49_mode0.md R913). -/
theorem bgKey_lt {bg : Nat → BgCol} {b c : Nat} (hb : b < 4) (hc : c < 4) (h : bgKey (bg b) b < bgKey (bg c) c) :
    m0BgInFront bg b c := by
  have tb := (bg b).tprio.isLt
  have tc := (bg c).tprio.isLt
  unfold bgKey at h
  unfold m0BgInFront
  simp only [BitVec.toNat_eq]
  omega

theorem sprKey_lt_bgKey {c : SprCol} {d : BgCol} {b : Nat} (hb : b < 4) (h : sprKey c < bgKey d b) :
    c.prio.toNat ≤ d.prio.toNat := by
  have hd := d.tprio.isLt
  unfold sprKey bgKey at h
  omega

theorem bgKey_lt_sprKey {c : SprCol} {d : BgCol} {b : Nat} (h : bgKey d b < sprKey c) : d.prio.toNat < c.prio.toNat := by
  unfold sprKey bgKey at h
  omega

theorem sprKey_ne_bgKey (c : SprCol) (d : BgCol) {b : Nat} (hb : b < 4) : sprKey c ≠ bgKey d b := by
  have hd := d.tprio.isLt
  unfold sprKey bgKey
  omega

/-- Keys in order say which contributor is in front (49_mode0.md R913). -/
theorem layerInFront_of_key {en : BitVec 6} {spr : SprCol} {bg : Nat → BgCol} {d e : Nat × Contributor}
    (hd : d ∈ m0Keyed en spr bg) (he : e ∈ m0Keyed en spr bg) (h : d.1 < e.1) :
    layerInFront spr bg (m0BgInFront bg) d.2.layer e.2.layer := by
  obtain ⟨rfl, _⟩ | ⟨b, hb, rfl, _⟩ := (mem_m0Keyed en spr bg d).mp hd <;>
    obtain ⟨rfl, _⟩ | ⟨c, hc, rfl, _⟩ := (mem_m0Keyed en spr bg e).mp he
  · exact absurd h (Nat.lt_irrefl _)
  · exact (layerInFront_obj_bg hc).mpr (sprKey_lt_bgKey hc h)
  · exact (layerInFront_bg_obj hb).mpr (bgKey_lt_sprKey h)
  · exact (layerInFront_bg_bg hb hc).mpr (bgKey_lt hb hc h)

/-- The contributors of a column have different keys. -/
theorem m0Keyed_pairwise (en : BitVec 6) (spr : SprCol) (bg : Nat → BgCol) :
    (m0Keyed en spr bg).Pairwise fun a b => a.1 ≠ b.1 := by
  unfold m0Keyed
  refine List.pairwise_append.mpr ⟨?_, ?_, ?_⟩
  · split
    · exact List.pairwise_singleton _ _
    · exact List.Pairwise.nil
  · refine List.pairwise_map.mpr (List.Pairwise.imp_of_mem ?_ (List.pairwise_lt_range.filter _))
    intro b c hb hc hlt
    have hb4 := List.mem_range.mp (List.mem_filter.mp hb).1
    have hc4 := List.mem_range.mp (List.mem_filter.mp hc).1
    have hb := (bg b).tprio.isLt
    have hc := (bg c).tprio.isLt
    unfold bgKey
    omega
  · intro d hd e he
    obtain ⟨b, hb, rfl⟩ := List.mem_map.mp he
    have hb4 := List.mem_range.mp (List.mem_filter.mp hb).1
    split at hd
    · obtain rfl := List.mem_singleton.mp hd
      exact sprKey_ne_bgKey spr (bg b) hb4
    · exact absurd hd List.not_mem_nil

theorem m0Contributors_pairwise (en : BitVec 6) (spr : SprCol) (bg : Nat → BgCol) (w : Word) :
    (m0Contributors en spr bg w).Pairwise fun a b => layerInFront spr bg (m0BgInFront bg) a.layer b.layer := by
  have sorted (e : Nat × Contributor) : e ∈ sortKeyed (m0Keyed en spr bg) ↔ e ∈ m0Keyed en spr bg :=
    (sortKeyed_perm _).mem_iff
  rw [m0Contributors_eq]
  refine List.pairwise_append.mpr ⟨List.pairwise_map.mpr ?_, List.pairwise_singleton _ _, fun c hc d hd => ?_⟩
  · exact (sortKeyed_pairwise (m0Keyed_pairwise en spr bg)).imp_of_mem fun hd he h =>
      layerInFront_of_key ((sorted _).mp hd) ((sorted _).mp he) h
  · obtain rfl := List.mem_singleton.mp hd
    obtain ⟨e, he, rfl⟩ := List.mem_map.mp hc
    obtain ⟨rfl, _⟩ | ⟨b, _, rfl, _⟩ := (mem_m0Keyed en spr bg e).mp ((sorted e).mp he)
    · trivial
    · exact layerInFront_bd (bgLayer_ne_bd b)

/-- What the contributor list of a column of mode 0 holds (49_mode0.md R913, R914). -/
theorem mem_m0Contributors (en : BitVec 6) (spr : SprCol) (bg : Nat → BgCol) (w : Word) (c : Contributor) :
    c ∈ m0Contributors en spr bg w ↔ c = ⟨.bd, w, false⟩ ∨
      (c = ⟨.obj, spr.colour, spr.semi⟩ ∧ bit en 4 = true ∧ spr.colour ≠ 0) ∨
      ∃ b : Nat, b < 4 ∧ c = ⟨bgLayer b, (bg b).colour, false⟩ ∧ bit en b = true ∧ (bg b).colour ≠ 0 := by
  rw [m0Contributors_eq, List.mem_append, List.mem_singleton, or_comm]
  refine or_congr_right ⟨fun h => ?_, fun h => ?_⟩
  · obtain ⟨e, he, rfl⟩ := List.mem_map.mp h
    obtain ⟨rfl, shown⟩ | ⟨b, hb, rfl, shown⟩ := (mem_m0Keyed en spr bg e).mp ((sortKeyed_perm _).mem_iff.mp he)
    · exact Or.inl ⟨rfl, shown⟩
    · exact Or.inr ⟨b, hb, rfl, shown⟩
  · refine List.mem_map.mpr ?_
    obtain ⟨rfl, shown⟩ | ⟨b, hb, rfl, shown⟩ := h
    · exact ⟨_, (sortKeyed_perm _).mem_iff.mpr ((mem_m0Keyed en spr bg _).mpr (Or.inl ⟨rfl, shown⟩)), rfl⟩
    · exact ⟨_, (sortKeyed_perm _).mem_iff.mpr ((mem_m0Keyed en spr bg _).mpr (Or.inr ⟨b, hb, rfl, shown⟩)), rfl⟩

theorem m0Contributors_ne_nil (en : BitVec 6) (spr : SprCol) (bg : Nat → BgCol) (w : Word) :
    m0Contributors en spr bg w ≠ [] := by
  rw [m0Contributors_eq]
  exact List.append_ne_nil_of_right_ne_nil _ (List.cons_ne_nil _ _)

/-- The enable set of a pixel of mode 0, with one condition per case (49_mode0.md R914). -/
theorem m0Enables_eq (M : M0Record) (w x y : Nat) (objwin : Bool) :
    m0Enables M w objwin x y =
      (let g := M.g
      let isIn := fun r : M0Window => r.x1 ≤ x ∧ (x : Int) < r.x2 ∧ r.x2 ≤ w ∧ r.y1 ≤ y ∧ (y : Int) < r.y2 ∧ r.y2 ≤ 360
      if g.win0On = false ∧ g.win1On = false ∧ g.objwinOn = false then 0b111111#6
      else if g.win0On = true ∧ isIn g.win0 then g.winin0
      else if g.win1On = true ∧ isIn g.win1 then g.winin1
      else if g.objwinOn = true ∧ objwin = true then g.winobj
      else g.winout) := by
  unfold m0Enables
  rw [WindowCase.enables_eq]
  dsimp only
  refine if_congr Iff.rfl rfl (if_congr (and_congr Iff.rfl (inWin_iff ..)) rfl (if_congr (and_congr Iff.rfl (inWin_iff ..)) rfl ?_))
  rfl

/-- Settles O55: the list of each column, its order and its members, then its two front entries. -/
theorem m0ComposeLineWritesFrontTwo : Obligations.M0ComposeLineWritesFrontTwo := by
  intro y s _ fw W g bl p0
  refine ⟨_, rfl, rfl, fun i hi => ?_, fun x hx => ?_⟩
  · exact writeRow_map_outside s.fb (m0ComposePixel s.m0 W s.line y.toNat) hi
  · intro spr bg isIn en inFront
    have enables : m0Enables s.m0 W spr.objwin x y.toNat = en := m0Enables_eq s.m0 W x y.toNat spr.objwin
    let backdrop := rgba p0.1 p0.2.1 p0.2.2
    have order : (m0Contributors en spr bg backdrop).Pairwise inFront :=
      (m0Contributors_pairwise en spr bg backdrop).imp fun h => h
    refine ⟨m0Contributors en spr bg backdrop, order, mem_m0Contributors en spr bg backdrop, ?_⟩
    obtain ⟨top, rest, front⟩ := List.exists_cons_of_ne_nil (m0Contributors_ne_nil en spr bg backdrop)
    have pixel : m0ComposePixel s.m0 W s.line y.toNat x = colourMath bl top rest.head? (bit en 5) := by
      show composeList bl (m0Enables s.m0 W spr.objwin x y.toNat)
        (m0Contributors (m0Enables s.m0 W spr.objwin x y.toNat) spr bg backdrop) = _
      rw [enables, front]
      rfl
    exact ⟨top, rest, front, (m0ComposeLine_pixel s s.m0 s.line y.toNat hx).trans pixel⟩

end Sys2Proof.Machine
end

section
/-! What a frame reads: two states that agree on it give the same frame. -/

namespace Sys2Proof.Machine

open Sys2Proof

/-! ### Frames over equal rows -/

/-- The framebuffer after a frame depends on the words before it and on the frame's rows. -/
theorem withFrame_fbWord_congr {s t : State} (fb : ∀ i, t.fbWord i = s.fbWord i) {w : Nat} (h : Nat)
    {row row' : Nat → List Word} (same : ∀ y, row' y = row y) (length : ∀ y, (row y).length = w) (i : Nat) :
    (t.withFrame w h row').fbWord i = (s.withFrame w h row).fbWord i := by
  obtain rfl : row' = row := funext same
  rw [withFrame_fbWord t w h _ fun y _ => length y, withFrame_fbWord s w h _ fun y _ => length y, fb]

theorem forcedBlankFill_fbWord_congr {s t : State} (fb : ∀ i, t.fbWord i = s.fbWord i) (i : Nat) :
    t.forcedBlankFill.fbWord i = s.forcedBlankFill.fbWord i := by
  rw [forcedBlankFill_fbWord, forcedBlankFill_fbWord, fb]

/-! ### Mode 0 -/

/-- The mode-0 record is read from VRAM alone (49_mode0.md R900). -/
theorem m0Record_congr (L : Config.Mode0Layout) {vram vram' : Memory Byte} (bytes : Memory.read 0 vram' = Memory.read 0 vram) :
    m0Record L vram' = m0Record L vram := by
  have field (f : Config.M0Field) : m0Field L vram' f = m0Field L vram f := by
    unfold m0Field m0Read
    rw [bytes]
  have reader : m0Reader L vram' = m0Reader L vram :=
    M0Reader.ext field fun f => congrArg (sextN (L.place f).len) (field f)
  unfold m0Record
  rw [reader]

theorem m0_congr {s t : State} (vram : ∀ o, t.regionByte .vram o = s.regionByte .vram o) : t.m0 = s.m0 :=
  m0Record_congr Config.mode0Layout (funext vram)

theorem renderMode0_fbWord_congr {s t : State} (regs : t.regs = s.regs) (fb : ∀ i, t.fbWord i = s.fbWord i)
    (vram : ∀ o, t.regionByte .vram o = s.regionByte .vram o) (i : Nat) : t.renderMode0.fbWord i = s.renderMode0.fbWord i := by
  unfold State.renderMode0
  rw [m0_congr vram, regs]
  split
  · exact forcedBlankFill_fbWord_congr fb i
  · split
    · exact withFrame_fbWord_congr fb _ (fun _ => rfl) (fun y => m0ComposeRow_length _ _ _ y) i
    · exact fb i

/-! ### Mode 7 -/

theorem dvram8_congr {s t : State} (vram : ∀ o, o < 0x20A8 → t.regionByte .vram o = s.regionByte .vram o) :
    t.dvram8 = s.dvram8 := funext (State.readU8_congr t s .vramDmg vram)

/-- A row of mode 7 is read through the view of VRAM alone (48_dmg.md R850). -/
theorem dmgRow_congr {s t : State} (h : t.dvram8 = s.dvram8) (y : Nat) : dmgRow t y = dmgRow s y := by
  have lcdc : t.lcdc = s.lcdc := congrFun h _
  have entry : t.dmgSprite = s.dmgSprite := by
    funext i
    unfold State.dmgSprite
    rw [h]
  have selection : selectSprites t y = selectSprites s y := by
    unfold selectSprites
    rw [lcdc, entry]
  have background (x y : Int) : dmgBgIndex t x y = dmgBgIndex s x y := by
    unfold dmgBgIndex dmgBgIndex.mapPixel State.lcdc State.scy State.scx State.wy State.wx
    rw [h]
  have index (hgt : Int) (e : DmgSprite) (x y : Int) : dmgSpriteIndex t hgt e x y = dmgSpriteIndex s hgt e x y := by
    unfold dmgSpriteIndex
    rw [h]
  have first (sel : List Nat) (x y : Int) : dmgFirstSprite t sel x y = dmgFirstSprite s sel x y := by
    unfold dmgFirstSprite
    simp only [lcdc, entry, index]
  have palettes : t.bgp = s.bgp ∧ t.obp0 = s.obp0 ∧ t.obp1 = s.obp1 := ⟨congrFun h _, congrFun h _, congrFun h _⟩
  unfold dmgRow dmgPixel
  simp only [selection, background, first, palettes]

theorem renderDmg_fbWord_congr {s t : State} (fb : ∀ i, t.fbWord i = s.fbWord i)
    (vram : ∀ o, o < 0x20A8 → t.regionByte .vram o = s.regionByte .vram o) (i : Nat) :
    t.renderDmg.fbWord i = s.renderDmg.fbWord i := by
  have view := dvram8_congr vram
  have lcdc : t.lcdc = s.lcdc := congrFun view _
  unfold State.renderDmg
  rw [lcdc]
  split
  · exact withFrame_fbWord_congr fb _ (dmgRow_congr view) (dmgRow_length s) i
  · exact forcedBlankFill_fbWord_congr fb i

/-! ### Modes 1 and 2 -/

/-- What modes 1 and 2 read: the view of VRAM, the palettes, OAM, and the I/O registers with a function there (10_state.md R111 to
R120). -/
structure SameGbaReads (s t : State) : Prop where
  gvram8 : t.gvram8 = s.gvram8
  gvram16 : t.gvram16 = s.gvram16
  bgpal : t.bgpal = s.bgpal
  objpal : t.objpal = s.objpal
  oam16 : t.oam16 = s.oam16
  io16 : ∀ o : Int, (o = 0 ∨ (8 ≤ o ∧ o ≤ 0x2E) ∨ (0x40 ≤ o ∧ o ≤ 0x4A) ∨ (0x50 ≤ o ∧ o ≤ 0x54)) → t.io16 o = s.io16 o
  io32 : ∀ o : Int, 8 ≤ o ∧ o ≤ 0x2C → t.io32 o = s.io32 o

/-- Equal bytes are read alike. -/
theorem sameGbaReads_of_bytes {s t : State} (vram : ∀ o, o < 0x18000 → t.regionByte .vram o = s.regionByte .vram o)
    (io : ∀ o, o < 0x56 → ¬ (0x02 ≤ o ∧ o ≤ 0x07) → ¬ (0x30 ≤ o ∧ o ≤ 0x3F) → ¬ (0x4C ≤ o ∧ o ≤ 0x4F) →
      t.regionByte .io o = s.regionByte .io o)
    (bgPltt : ∀ o, t.regionByte .bgPltt o = s.regionByte .bgPltt o)
    (objPltt : ∀ o, t.regionByte .objPltt o = s.regionByte .objPltt o)
    (oam : ∀ o, t.regionByte .oam o = s.regionByte .oam o) : SameGbaReads s t where
  gvram8 := funext (State.readU8_congr t s .vramGba vram)
  gvram16 := funext fun o => State.readU16_congr t s .vramGba o fun o _ _ ho => vram o ho
  bgpal := funext fun i => State.readU16_congr t s .bgPltt (2 * i) fun o _ _ _ => bgPltt o
  objpal := funext fun i => State.readU16_congr t s .objPltt (2 * i) fun o _ _ _ => objPltt o
  oam16 := funext fun k => State.readU16_congr t s .oam (2 * k) fun o _ _ _ => oam o
  io16 o ho := State.readU16_congr t s .io o fun a low high _ =>
    io a (by omega) (by omega) (by omega) (by omega)
  io32 o ho := State.readU32_congr t s .io o fun a low high _ =>
    io a (by omega) (by omega) (by omega) (by omega)

theorem SameGbaReads.dispcnt {s t : State} (h : SameGbaReads s t) : t.dispcnt = s.dispcnt := h.io16 0 (Or.inl rfl)

theorem SameGbaReads.switches {s t : State} (h : SameGbaReads s t) :
    t.forcedBlankGba = s.forcedBlankGba ∧ t.bgOn = s.bgOn ∧ t.objOn = s.objOn ∧ t.obj1d = s.obj1d := by
  refine ⟨?_, funext fun b => ?_, ?_, ?_⟩
  · exact congrArg (bit · 7) h.dispcnt
  · exact congrArg (bit · (8 + b)) h.dispcnt
  · exact congrArg (bit · 12) h.dispcnt
  · exact congrArg (bit · 6) h.dispcnt

theorem SameGbaReads.textBgPixel_eq {s t : State} (h : SameGbaReads s t) {b : Nat} (hb : b < 4) (y x : Nat) :
    textBgPixel t b y x = textBgPixel s b y x := by
  have control : t.bgCnt b = s.bgCnt b := h.io16 _ (by omega)
  have hofs : t.bgHofs b = s.bgHofs b := congrArg (bitsN · 0 9) (h.io16 _ (by omega))
  have vofs : t.bgVofs b = s.bgVofs b := congrArg (bitsN · 0 9) (h.io16 _ (by omega))
  unfold textBgPixel
  rw [control, hofs, vofs]
  exact textBgColumn_congr (congrFun h.gvram8) (congrFun h.gvram16) (congrFun h.bgpal) _ _ _ _ _

theorem SameGbaReads.affineBgPixel_eq {s t : State} (h : SameGbaReads s t) (y x : Nat) :
    affineBgPixel t 2 y x = affineBgPixel s 2 y x := by
  have control : t.bgCnt 2 = s.bgCnt 2 := h.io16 _ (by omega)
  have refX : t.bgRefX 2 = s.bgRefX 2 := congrArg sext28 (h.io32 _ (by decide))
  have refY : t.bgRefY 2 = s.bgRefY 2 := congrArg sext28 (h.io32 _ (by decide))
  have matrix : t.bgMatrix 2 = s.bgMatrix 2 := by
    unfold State.bgMatrix
    rw [h.io16 _ (by decide), h.io16 _ (by decide), h.io16 _ (by decide), h.io16 _ (by decide)]
  have texel (cnt : BgCnt) (u v : Int) : affineTexel t cnt u v = affineTexel s cnt u v := by
    unfold affineTexel State.bgColour
    rw [h.gvram8, h.bgpal]
  unfold affineBgPixel affineBgColumn
  simp only [control, refX, refY, matrix, texel]

theorem SameGbaReads.gbaBgPixel_eq {s t : State} (h : SameGbaReads s t) (mixed : Bool) {b : Nat} (hb : b < 4) (y x : Nat) :
    gbaBgPixel t mixed b y x = gbaBgPixel s mixed b y x := by
  obtain ⟨_, bgOn, _, _⟩ := h.switches
  unfold gbaBgPixel
  rw [bgOn, h.textBgPixel_eq hb]
  by_cases two : b = 2
  · subst two
    rw [h.affineBgPixel_eq]
  · simp [two]

theorem SameGbaReads.oamSprite_eq {s t : State} (h : SameGbaReads s t) (i : Nat) (y sx : Int) (c : SprCol) :
    t.oamSprite i y sx c = s.oamSprite i y sx c := by
  obtain ⟨_, _, _, obj1d⟩ := h.switches
  have matrix (g : Nat) : t.spriteMatrix g = s.spriteMatrix g := by
    unfold State.spriteMatrix
    rw [h.oam16]
  have texel (k : SpriteKind) (a : ObjAttr) (w hgt cx iy : Int) :
      spriteTexel t k a w hgt cx iy = spriteTexel s k a w hgt cx iy := by
    unfold spriteTexel
    rw [matrix]
  have index (a : ObjAttr) (w tx ty : Int) : spriteIndex t a w tx ty = spriteIndex s a w tx ty := by
    unfold spriteIndex
    rw [obj1d, h.gvram8]
  have colour (b8 : Bool) (pal : Nat) (idx : Byte) : t.objColour b8 pal idx = s.objColour b8 pal idx := by
    unfold State.objColour
    rw [h.objpal]
  have column (k : SpriteKind) (a : ObjAttr) : spriteColumn t k a y sx c = spriteColumn s k a y sx c := by
    unfold spriteColumn
    simp only [texel, index, colour]
  unfold State.oamSprite
  dsimp only
  rw [h.oam16, column]

theorem SameGbaReads.spritePixel_eq {s t : State} (h : SameGbaReads s t) (y x : Nat) : spritePixel t y x = spritePixel s y x := by
  obtain ⟨_, _, objOn, _⟩ := h.switches
  unfold spritePixel
  simp only [objOn, h.oamSprite_eq]

theorem SameGbaReads.gbaLines_eq {s t : State} (h : SameGbaReads s t) (mixed : Bool) (y : Nat) :
    gbaLines t mixed y = gbaLines s mixed y := by
  have bg (b : Nat) (hb : b < 4) : gbaBgPixel t mixed b y = gbaBgPixel s mixed b y := funext (h.gbaBgPixel_eq mixed hb y)
  have spr : spritePixel t y = spritePixel s y := funext (h.spritePixel_eq y)
  unfold gbaLines
  rw [bg 0 (by decide), bg 1 (by decide), bg 2 (by decide), bg 3 (by decide), spr]

theorem SameGbaReads.gbaEnables_eq {s t : State} (h : SameGbaReads s t) (objwin : Bool) (x y : Nat) :
    gbaEnables t objwin x y = gbaEnables s objwin x y := by
  unfold gbaEnables State.win0On State.win1On State.objwinOn State.win0H State.win0V State.win1H State.win1V
    State.winin State.winout
  rw [h.dispcnt, h.io16 0x40 (by decide), h.io16 0x42 (by decide), h.io16 0x44 (by decide), h.io16 0x46 (by decide),
    h.io16 0x48 (by decide), h.io16 0x4A (by decide)]

theorem SameGbaReads.composeRow_eq {s t : State} (h : SameGbaReads s t) (lb : LineBuffers) (y : Nat) :
    composeRow t lb y = composeRow s lb y := by
  have blend : gbaBlend t t.bldcnt = gbaBlend s s.bldcnt := by
    unfold gbaBlend State.bldcnt State.bldalpha State.bldy
    rw [h.io16 0x50 (by decide), h.io16 0x52 (by decide), h.io16 0x54 (by decide)]
  have backdrop : t.backdrop = s.backdrop := by
    unfold State.backdrop
    rw [h.bgpal]
  unfold composeRow composePixel
  simp only [h.gbaEnables_eq, blend, backdrop]

theorem renderGba_fbWord_congr {s t : State} (h : SameGbaReads s t) (fb : ∀ i, t.fbWord i = s.fbWord i) (mixed : Bool) (i : Nat) :
    (t.renderGba mixed).fbWord i = (s.renderGba mixed).fbWord i := by
  obtain ⟨blank, _, _, _⟩ := h.switches
  have row (y : Nat) : gbaRow t mixed y = gbaRow s mixed y := by
    unfold gbaRow
    rw [h.gbaLines_eq]
    exact h.composeRow_eq _ y
  unfold State.renderGba
  rw [blank]
  split
  · exact forcedBlankFill_fbWord_congr fb i
  · exact withFrame_fbWord_congr fb _ row (fun y => composeRow_length s _ y) i

/-! ### The obligation -/

/-- Settles O60: each pipeline on its own reads. -/
theorem frameIgnoresWhatItsModeDoesNotRead : Obligations.FrameIgnoresWhatItsModeDoesNotRead := by
  intro s t regs fb gba dmg mode0
  refine ⟨s.render, t.render, rfl, rfl, fun i => ?_⟩
  have reads (mode : s.regs.mode.toNat = 1 ∨ s.regs.mode.toNat = 2) : SameGbaReads s t := by
    obtain ⟨vram, io, bgPltt, objPltt, oam⟩ := gba mode
    exact sameGbaReads_of_bytes vram io bgPltt objPltt oam
  unfold State.render
  rw [regs]
  split
  · next mode => exact renderMode0_fbWord_congr regs fb (mode0 mode) i
  · next mode => exact renderGba_fbWord_congr (reads (Or.inl mode)) fb false i
  · next mode => exact renderGba_fbWord_congr (reads (Or.inr mode)) fb true i
  · next mode => exact renderDmg_fbWord_congr fb (dmg mode) i
  · exact fb i

end Sys2Proof.Machine
end
